-- ==== Sys2Proof/Word.lean ====
section
/-! DEFINITION. The word types of FSK8. -/

namespace Sys2Proof

/-- A command word, a bus value, a 32-bit register (R7, R110). -/
abbrev Word := BitVec 32

/-- A CRC input byte or a character code (R114). -/
abbrev Byte := BitVec 8

/-- A signed 16-bit two's complement sample (R8, R12). -/
abbrev Sample := BitVec 16

end Sys2Proof
end

