-- ==== Sys2Proof/Syntax.lean ====
section
/-! DEFINITION. The commands of FSK8, one constructor per row of the opcode map (R111). -/

namespace Sys2Proof

/-- One command with its operands (R114). Bit fields keep their width; the sample count N and the array
index IDX are numbers. -/
inductive Instr where
  /-- `NOP` (0x00, R310). -/
  | nop
  /-- `SYS_RESET` (0x01, R311). -/
  | sysReset
  /-- `TG_RESET` (0x10, R143). -/
  | tgReset
  /-- `TG_TONE sym, n` (0x11, R144). -/
  | tgTone (sym : BitVec 3) (n : Nat)
  /-- `TG_SYMBOL sym` (0x12, R147). -/
  | tgSymbol (sym : BitVec 3)
  /-- `DM_RESET` (0x20, R171). -/
  | dmReset
  /-- `DM_PUSH sample` (0x21, R172). -/
  | dmPush (sample : Sample)
  /-- `VT_LOAD idx, sym` (0x30, R221). -/
  | vtLoad (idx : Nat) (sym : BitVec 3)
  /-- `VT_RUN` (0x31, R222). -/
  | vtRun
  /-- `GOL_ENC info` (0x40, R244). -/
  | golEnc (info : BitVec 12)
  /-- `GOL_DEC rx` (0x41, R245). -/
  | golDec (rx : BitVec 24)
  /-- `ASC_ENC c0c1c2` (0x50, R272); `c0` is the first character. -/
  | ascEnc (c0 c1 c2 : Byte)
  /-- `ASC_DEC payload` (0x51, R273). -/
  | ascDec (payload : BitVec 21)
  /-- `CRC_INIT` (0x60, R292). -/
  | crcInit
  /-- `CRC_BYTE byte` (0x61, R293). -/
  | crcByte (byte : Byte)
  /-- `CRC_CHECK` (0x62, R294). -/
  | crcCheck
deriving DecidableEq, Repr

/-- The three command errors (R330), in the order of their ERR bits, which is also their priority (R333). -/
inductive CmdErr where
  /-- The opcode byte is not in the opcode map (R112). Raised by decoding. -/
  | illegalOp
  /-- A reserved field of a defined opcode is not zero (R113). Raised by decoding. -/
  | rsvdNonzero
  /-- VT_LOAD with IDX above 146 (R221). Raised by the command. -/
  | range
deriving DecidableEq, Repr

end Sys2Proof
end

