-- ==== Sys2Proof/WellFormed.lean ====
section
/-! DEFINITION. Which commands a command word can hold (R114). -/

namespace Sys2Proof

/-- Every operand fits its field. Bit fields fit by their type; the count N has 16 bits (R114: "a sample
count 0..65535") and the index IDX has 8 (R114: "0..255"). An IDX of 147..255 is well-formed: the
command word exists, and the command raises RANGE (R221). -/
def Instr.wellFormed : Instr → Bool
  | .nop => true
  | .sysReset => true
  | .tgReset => true
  | .tgTone _ n => n < 65536
  | .tgSymbol _ => true
  | .dmReset => true
  | .dmPush _ => true
  | .vtLoad idx _ => idx < 256
  | .vtRun => true
  | .golEnc _ => true
  | .golDec _ => true
  | .ascEnc _ _ _ => true
  | .ascDec _ => true
  | .crcInit => true
  | .crcByte _ => true
  | .crcCheck => true

end Sys2Proof
end

