-- ==== Sys2Proof/Decode.lean ====
section
/-! DEFINITION. Command words to commands and back (30_encoding.md R110-R114). -/

namespace Sys2Proof

/-- The ten layouts of a command word (R110). -/
inductive Format where
  | f0 | f1 | f2 | f3 | f4 | f5 | f6 | f7 | f8 | f9
deriving DecidableEq, Repr

/-- The bits a format reserves, the opcode bits excluded (R113). -/
def Format.rsvdMask : Format → Word
  | .f0 => 0xFFFFFF00
  | .f1 => 0x0000F800
  | .f2 => 0xFFFFF800
  | .f3 => 0x0000FF00
  | .f4 => 0xFFF80000
  | .f5 => 0xFFF00000
  | .f6 => 0x00000000
  | .f7 => 0x00000000
  | .f8 => 0xE0000000
  | .f9 => 0xFFFF0000

/-- The sixteen defined opcodes (R111). -/
inductive Opcode where
  | nop | sysReset | tgReset | tgTone | tgSymbol | dmReset | dmPush | vtLoad | vtRun
  | golEnc | golDec | ascEnc | ascDec | crcInit | crcByte | crcCheck
deriving DecidableEq, Repr

/-- The opcode byte cmd[7:0] (R111). -/
def Opcode.code : Opcode → Byte
  | .nop => 0x00
  | .sysReset => 0x01
  | .tgReset => 0x10
  | .tgTone => 0x11
  | .tgSymbol => 0x12
  | .dmReset => 0x20
  | .dmPush => 0x21
  | .vtLoad => 0x30
  | .vtRun => 0x31
  | .golEnc => 0x40
  | .golDec => 0x41
  | .ascEnc => 0x50
  | .ascDec => 0x51
  | .crcInit => 0x60
  | .crcByte => 0x61
  | .crcCheck => 0x62

/-- The format of each opcode (R111). -/
def Opcode.format : Opcode → Format
  | .nop => .f0
  | .sysReset => .f0
  | .tgReset => .f0
  | .tgTone => .f1
  | .tgSymbol => .f2
  | .dmReset => .f0
  | .dmPush => .f3
  | .vtLoad => .f4
  | .vtRun => .f0
  | .golEnc => .f5
  | .golDec => .f6
  | .ascEnc => .f7
  | .ascDec => .f8
  | .crcInit => .f0
  | .crcByte => .f9
  | .crcCheck => .f0

/-- All sixteen opcodes, in the order of the opcode map. -/
def Opcode.all : List Opcode :=
  [.nop, .sysReset, .tgReset, .tgTone, .tgSymbol, .dmReset, .dmPush, .vtLoad, .vtRun,
   .golEnc, .golDec, .ascEnc, .ascDec, .crcInit, .crcByte, .crcCheck]

/-- The opcode an opcode byte selects; none for the 240 illegal bytes (R112). -/
def Opcode.ofByte? (b : Byte) : Option Opcode :=
  Opcode.all.find? fun op => op.code == b

/-- `cmd[lo + len - 1 : lo]` (R11). -/
def field (cmd : Word) (lo len : Nat) : BitVec len :=
  cmd.extractLsb' lo len

/-- The command of an opcode with its operands taken from the word (R110, R114). -/
def Opcode.operands (cmd : Word) : Opcode → Instr
  | .nop => .nop
  | .sysReset => .sysReset
  | .tgReset => .tgReset
  | .tgTone => .tgTone (field cmd 8 3) (field cmd 16 16).toNat
  | .tgSymbol => .tgSymbol (field cmd 8 3)
  | .dmReset => .dmReset
  | .dmPush => .dmPush (field cmd 16 16)
  | .vtLoad => .vtLoad (field cmd 8 8).toNat (field cmd 16 3)
  | .vtRun => .vtRun
  | .golEnc => .golEnc (field cmd 8 12)
  | .golDec => .golDec (field cmd 8 24)
  | .ascEnc => .ascEnc (field cmd 8 8) (field cmd 16 8) (field cmd 24 8)
  | .ascDec => .ascDec (field cmd 8 21)
  | .crcInit => .crcInit
  | .crcByte => .crcByte (field cmd 8 8)
  | .crcCheck => .crcCheck

/-- The decoder of R75 and R333: the opcode check first, then the reserved-bit check, then the operands.
It is total, and it rejects by the name of the command error. -/
def decode (cmd : Word) : Except CmdErr Instr :=
  match Opcode.ofByte? (field cmd 0 8) with
  | none => .error .illegalOp
  | some op =>
    if cmd &&& op.format.rsvdMask = 0 then .ok (op.operands cmd) else .error .rsvdNonzero

/-- A value placed in the word at bit `lo`. -/
def place {len : Nat} (v : BitVec len) (lo : Nat) : Word :=
  v.setWidth 32 <<< lo

/-- The opcode of a command (R111). -/
def Instr.opcode : Instr → Opcode
  | .nop => .nop
  | .sysReset => .sysReset
  | .tgReset => .tgReset
  | .tgTone _ _ => .tgTone
  | .tgSymbol _ => .tgSymbol
  | .dmReset => .dmReset
  | .dmPush _ => .dmPush
  | .vtLoad _ _ => .vtLoad
  | .vtRun => .vtRun
  | .golEnc _ => .golEnc
  | .golDec _ => .golDec
  | .ascEnc _ _ _ => .ascEnc
  | .ascDec _ => .ascDec
  | .crcInit => .crcInit
  | .crcByte _ => .crcByte
  | .crcCheck => .crcCheck

/-- The operand fields of a command in their places, all other bits 0 (R110). -/
def Instr.operandBits : Instr → Word
  | .nop => 0
  | .sysReset => 0
  | .tgReset => 0
  | .tgTone sym n => place sym 8 ||| place (BitVec.ofNat 16 n) 16
  | .tgSymbol sym => place sym 8
  | .dmReset => 0
  | .dmPush sample => place sample 16
  | .vtLoad idx sym => place (BitVec.ofNat 8 idx) 8 ||| place sym 16
  | .vtRun => 0
  | .golEnc info => place info 8
  | .golDec rx => place rx 8
  | .ascEnc c0 c1 c2 => place c0 8 ||| place c1 16 ||| place c2 24
  | .ascDec payload => place payload 8
  | .crcInit => 0
  | .crcByte byte => place byte 8
  | .crcCheck => 0

/-- The command word of a command: opcode, operand fields, reserved bits zero (R110, R113). -/
def encode (i : Instr) : Word :=
  place i.opcode.code 0 ||| i.operandBits

/-- The command word made of the low `nbits` bits of `w`; the bits above are 0. A command is one 32-bit
word whose bit 0 is the least significant (R11, R110), as the opcode table numbers it. -/
def tableWord (nbits w : Nat) : Word :=
  BitVec.ofNat 32 (w % 2 ^ nbits)

/-- What the decoder reads from an opcode-table word. -/
def decodeTableWord (nbits w : Nat) : Option Instr :=
  match decode (tableWord nbits w) with
  | .ok i => some i
  | .error _ => none

end Sys2Proof
end

