-- ==== Sys2Proof/Config.lean ====
section
/-! DEFINITION. What an implementation fixes: the parameters of 00_scope.md R10 and R70. -/

namespace Sys2Proof

/-- DET_TIE_POLICY (R10, R202, D17): what the detector does when two band bins share the maximum. -/
inductive TiePolicy where
  /-- Detection succeeds iff exactly one band bin holds the maximum (the default). -/
  | strict
  /-- Detection succeeds iff the maximum is not 0, and the lowest bin that holds it wins. -/
  | lowestNonzero
deriving DecidableEq, Repr

/-- SNR_FN (R10, R205, D19): the reference function, or another one, of which nothing is known. -/
inductive SnrFn where
  /-- `SNR_ref` of R205 (the default). -/
  | reference
  /-- The uninterpreted function `Config.otherSnr`. -/
  | other
deriving DecidableEq, Repr

/-- The parameters of the machine as plain data (R10). GOLAY_PARITY is GF(2)-linear (R241), so its
values on the twelve words `1 <<< i` determine it: they are `golayRows`. -/
structure Params where
  tiePolicy : TiePolicy
  snrFn     : SnrFn
  golayRows : Vector (BitVec 12) 12
deriving DecidableEq, Repr

/-- An SNR_FN other than the reference, left uninterpreted (R205: "A model that needs only symbols may
leave SNR_FN uninterpreted"). Arguments: PEAK and NOISE; value: the s32 SNR. -/
opaque Config.otherSnr : Word → Word → Word

/-- WINDOW_BASE, where the platform puts the register window (R70, D39). No rule reads it, and the model
speaks of offsets in the window only. -/
opaque Config.windowBase : Nat

end Sys2Proof
end

