-- ==== Sys2Proof/Machine/State.lean ====
section
/-! DEFINITION. The state of FSK8 (10_state.md R32), the model's own inputs and outputs beside it, and
the state after reset (R360). Fields have the width the spec gives the register's field, so a bit that
"reads as 0" is not stored (log 20). -/

namespace Sys2Proof.Machine

/-- DM_SYM (R39): SYM in bits 2:0, VALID in bit 8, BLOCK in bit 16. -/
structure DmSym where
  sym   : BitVec 3
  valid : Bool
  block : Bool
deriving DecidableEq, Repr

/-- GOL_STAT (R51): NERR in bits 3:0, UNCORR in bit 8, OP in bit 16 (false: encode, true: decode). -/
structure GolStat where
  nerr   : BitVec 4
  uncorr : Bool
  op     : Bool
deriving DecidableEq, Repr

/-- ASC_STAT (R57): INVALID in bit 0, OP in bit 16 (false: encode, true: decode). -/
structure AscStat where
  invalid : Bool
  op      : Bool
deriving DecidableEq, Repr

/-- One record of SYM_OUT (R59). `snr` is an s32 in two's complement. -/
structure SymRecord where
  sym   : BitVec 3
  valid : Bool
  peak  : Word
  noise : Word
  snr   : Word
  sidx  : Word
deriving DecidableEq, Repr

/-- ERR (bit 0 ILLEGAL_OP, bit 1 RSVD_NONZERO, bit 2 RANGE; R35) and ERR_CMD (R36). -/
structure ErrUnit where
  err    : BitVec 3
  errCmd : Word
deriving DecidableEq, Repr

/-- The tone generator: TG_AMP, unsigned Q1.15 (R37), and the phase accumulators TG_PHASE (R38). -/
structure ToneUnit where
  amp   : BitVec 16
  phase : Vector Word 8
deriving DecidableEq, Repr

/-- The demodulator: DM_SYM, DM_PEAK, DM_NOISE, DM_SNR, DM_SIDX, DM_COUNT, MAG and the hidden WIN
(R39-R46). -/
structure DemodUnit where
  sym   : DmSym
  peak  : Word
  noise : Word
  snr   : Word
  sidx  : Word
  count : Word
  mag   : Vector Word 64
  win   : Vector Sample 64
deriving DecidableEq, Repr

/-- The voter: VT_WORD, VT_ERRS and the symbol array VT_SYM (R47-R49). -/
structure VoterUnit where
  word : BitVec 24
  errs : BitVec 5
  sym  : Vector (BitVec 3) 147
deriving DecidableEq, Repr

/-- The Golay unit: GOL_RES and GOL_STAT (R50, R51). -/
structure GolayUnit where
  res  : BitVec 24
  stat : GolStat
deriving DecidableEq, Repr

/-- The CRC engine: CRC_STATE, CRC_EXPECT and the MATCH bit of CRC_STAT (R52, R54, R55). -/
structure CrcUnit where
  state  : Word
  expect : Word
  mtch   : Bool
deriving DecidableEq, Repr

/-- The ASCII codec: ASC_RES and ASC_STAT (R56, R57). -/
structure AsciiUnit where
  res  : Word
  stat : AscStat
deriving DecidableEq, Repr

/-- Who drives an access. FSK8 has one bus agent, the host (R82). -/
inductive BusAgent where
  | host
  | other
deriving DecidableEq, Repr

/-- What an access does: read, or write a value. -/
inductive BusOp where
  | read
  | write (value : Word)
deriving DecidableEq, Repr

/-- One bus access: who, how many bits wide, at which byte offset of the window, and what (R7, R72). -/
structure BusAccess where
  agent  : BusAgent
  width  : Nat
  offset : Nat
  op     : BusOp
deriving DecidableEq, Repr

/-- The ready inputs of the two streams: whether the consumer of TX_OUT, of SYM_OUT, accepts (R80). -/
structure StreamReady where
  tx  : Bool
  sym : Bool
deriving DecidableEq, Repr

/-- The whole state. The first nine fields are the spec's (R32); the rest is the model's own: the
parameters, which nothing writes, and the outside world's inputs and the replies it gets. -/
structure State where
  err : ErrUnit
  tg  : ToneUnit
  dm  : DemodUnit
  vt  : VoterUnit
  gol : GolayUnit
  crc : CrcUnit
  asc : AsciiUnit
  /-- TX_OUT, oldest sample first (R59). -/
  txOut  : List Sample
  /-- SYM_OUT, oldest record first (R59). -/
  symOut : List SymRecord
  /-- The parameters of R10. -/
  params : Params
  /-- The bus accesses the host has yet to have performed, in order (R31, R82). -/
  pending : List BusAccess
  /-- What the host's reads returned, oldest first (R73). -/
  replies : List Word
  /-- The ready inputs of the streams now. -/
  ready : StreamReady
  /-- The values the ready inputs take in the coming steps, one a step; when the list is empty they stay. -/
  readyPlan : List StreamReady
deriving DecidableEq, Repr

/-- Faults. There is none: FSK8 has no traps (R336), a malformed command is a next state with an ERR bit
set (R331), and a refusing consumer holds a command without a fault (R366). So no step of the model
answers a fault, and the type is empty. -/
inductive Fault where
deriving DecidableEq, Repr

/-- Refusals: why an access has no step. -/
inductive Refusal where
  /-- An instruction whose meaning is not written. Raised by an arm of `exec` only; no arm does. Safe. -/
  | notModelled (mnemonic : String)
  /-- An access of an agent other than the host (R82, ID11). Raised by `step`. Safe. -/
  | secondAgent
  /-- An access that is not 32 bits wide (R72, ID9). Raised by `step`. Safe. -/
  | notA32BitAccess
  /-- An access at an offset that is no multiple of 4 (R72, ID9). Raised by `step`. Safe. -/
  | misaligned
  /-- An access at an offset above 0xFFF (ID9). Raised by `step`. Safe. -/
  | outsideWindow
deriving DecidableEq, Repr

/-- ERR and ERR_CMD after reset (R35, R36). -/
def ErrUnit.reset : ErrUnit where
  err := 0
  errCmd := 0

/-- TG_AMP and TG_PHASE after reset (R37, R38). -/
def ToneUnit.reset : ToneUnit where
  amp := 22938
  phase := Vector.replicate 8 0

/-- The demodulator after reset (R39-R46). -/
def DemodUnit.reset : DemodUnit where
  sym := { sym := 0, valid := false, block := false }
  peak := 0
  noise := 0
  snr := 0
  sidx := 0
  count := 0
  mag := Vector.replicate 64 0
  win := Vector.replicate 64 0

/-- The voter after reset (R47-R49). -/
def VoterUnit.reset : VoterUnit where
  word := 0
  errs := 0
  sym := Vector.replicate 147 0

/-- The Golay unit after reset (R50, R51). -/
def GolayUnit.reset : GolayUnit where
  res := 0
  stat := { nerr := 0, uncorr := false, op := false }

/-- The CRC engine after reset (R52, R54, R55). -/
def CrcUnit.reset : CrcUnit where
  state := 0xFFFFFFFF
  expect := 0
  mtch := false

/-- The ASCII codec after reset (R56, R57). -/
def AsciiUnit.reset : AsciiUnit where
  res := 0
  stat := { invalid := false, op := false }

/-- The machine right after power-on reset (R360). The model's own fields: no access pending, no reply,
both consumers accepting, the parameters at their defaults (log 1, 3, 4, 5, 7). -/
def State.reset : State where
  err := .reset
  tg := .reset
  dm := .reset
  vt := .reset
  gol := .reset
  crc := .reset
  asc := .reset
  txOut := []
  symOut := []
  params := defaultParams
  pending := []
  replies := []
  ready := { tx := true, sym := true }
  readyPlan := []

end Sys2Proof.Machine
end

