-- ==== Sys2Proof/Machine/Operands.lean ====
section
/-! DEFINITION. The operand forms: numbers read from fields, the fields of a 24-bit ALE word, byte order
(R14, R38, R44, R76, R114, R115). -/

namespace Sys2Proof.Machine

/-- A sample as a signed number, `sext_16` (R114). -/
def sampleValue (x : Sample) : Int :=
  x.toInt

/-- Bits [31:24] of a phase: the index into the sine ROM (R38). -/
def phaseIndex (ph : Word) : BitVec 8 :=
  ph.extractLsb' 24 8

/-- Bits [23:0] of a phase: the interpolation fraction (R38). -/
def phaseFrac (ph : Word) : BitVec 24 :=
  ph.extractLsb' 0 24

/-- The accumulator of a tone: SYM is always a symbol in 0..7 (R114). -/
def toneIx (sym : BitVec 3) : Fin 8 :=
  ⟨sym.toNat, sym.isLt⟩

/-- DM_COUNT[5:0], the write position in WIN (R44). -/
def winPos (count : Word) : Fin 64 :=
  ⟨(count.extractLsb' 0 6).toNat, (count.extractLsb' 0 6).isLt⟩

/-- Character c0 of a payload, bits 6:0 (R115). -/
def payloadC0 (p : BitVec 21) : Byte :=
  (p.extractLsb' 0 7).setWidth 8

/-- Character c1 of a payload, bits 13:7 (R115). -/
def payloadC1 (p : BitVec 21) : Byte :=
  (p.extractLsb' 7 7).setWidth 8

/-- Character c2 of a payload, bits 20:14 (R115). -/
def payloadC2 (p : BitVec 21) : Byte :=
  (p.extractLsb' 14 7).setWidth 8

/-- The payload of three 7-bit characters (R115, R272). -/
def packChars (c0 c1 c2 : Byte) : BitVec 21 :=
  (c2.setWidth 7 ++ c1.setWidth 7 ++ c0.setWidth 7 : BitVec (7 + 7 + 7))

/-- The preamble codes of a 24-bit ALE word (R115, R16). -/
inductive Preamble where
  | dataWord | thru | toWord | tws | fromWord | tis | cmd | rep
deriving DecidableEq, Repr

/-- The code of a preamble (R115). -/
def Preamble.code : Preamble → BitVec 3
  | .dataWord => 0
  | .thru => 1
  | .toWord => 2
  | .tws => 3
  | .fromWord => 4
  | .tis => 5
  | .cmd => 6
  | .rep => 7

/-- The preamble bits of a 24-bit ALE word, W[2:0] (R115). -/
def wordPreamble (w : BitVec 24) : BitVec 3 :=
  w.extractLsb' 0 3

/-- The payload of a 24-bit ALE word, W[23:3] (R115). -/
def wordPayload (w : BitVec 24) : BitVec 21 :=
  w.extractLsb' 3 21

/-- The ALE word of a preamble and a payload, `preamble | (payload << 3)` (R115). -/
def aleWord (preamble : BitVec 3) (payload : BitVec 21) : BitVec 24 :=
  (payload ++ preamble : BitVec (21 + 3))

/-- Byte lane i of a bus word, bits [8i+7 : 8i] (R76, D35). No access of the window can see it. -/
def byteLane (v : Word) (i : Nat) : Byte :=
  v.extractLsb' (8 * i) 8

/-- A word as four bytes in wire order, big-endian, bits 31:24 first (R76, R295). -/
def wireBytes (v : Word) : List Byte :=
  [byteLane v 3, byteLane v 2, byteLane v 1, byteLane v 0]

/-- The bits of a byte string in wire order, each byte's most significant bit first (R76, R290). -/
def wireBits (bytes : List Byte) : List Bool :=
  bytes.flatMap fun b => (List.range 8).map fun i => b.getLsbD (7 - i)

/-- The word of four bytes in wire order: `b0<<24 | b1<<16 | b2<<8 | b3` (R118, R295). -/
def ofWireBytes (b0 b1 b2 b3 : Byte) : Word :=
  (b0 ++ b1 ++ b2 ++ b3 : BitVec (8 + 8 + 8 + 8))

end Sys2Proof.Machine
end

