-- ==== Sys2Proof/Machine/Flags.lean ====
section
/-! DEFINITION. The flags (R60): the ERR bits, and the words in which a read shows the status registers. -/

namespace Sys2Proof.Machine

/-- The ERR bit number of a command error (R330). -/
def errBit : CmdErr → Nat
  | .illegalOp => 0
  | .rsvdNonzero => 1
  | .range => 2

/-- `1 << e`, the ERR value with only that error's bit set (R331). -/
def errMask (e : CmdErr) : BitVec 3 :=
  1#3 <<< errBit e

/-- ERR with an error's bit set: `x[ERR] or (1 << e)` (R331). -/
def setErr (err : BitVec 3) (e : CmdErr) : BitVec 3 :=
  err ||| errMask e

/-- Write-1-to-clear: `x[ERR] and not v[2:0]` (R35, R74). -/
def clearErr (err : BitVec 3) (v : Word) : BitVec 3 :=
  err &&& ~~~(v.setWidth 3)

/-- A flag as bit `n` of a word. -/
def flagAt (b : Bool) (n : Nat) : Word :=
  (BitVec.ofBool b).setWidth 32 <<< n

/-- The word DM_SYM reads as: `SYM | VALID << 8 | BLOCK << 16` (R39). -/
def DmSym.toWord (d : DmSym) : Word :=
  d.sym.setWidth 32 ||| flagAt d.valid 8 ||| flagAt d.block 16

/-- The word GOL_STAT reads as: `NERR | UNCORR << 8 | OP << 16` (R51). -/
def GolStat.toWord (g : GolStat) : Word :=
  g.nerr.setWidth 32 ||| flagAt g.uncorr 8 ||| flagAt g.op 16

/-- The word ASC_STAT reads as: `INVALID | OP << 16` (R57). -/
def AscStat.toWord (a : AscStat) : Word :=
  flagAt a.invalid 0 ||| flagAt a.op 16

/-- The word CRC_STAT reads as: MATCH in bit 0 (R55). -/
def crcStatWord (mtch : Bool) : Word :=
  flagAt mtch 0

end Sys2Proof.Machine
end

