-- ==== Sys2Proof/Machine/Ops.lean ====
section
/-! DEFINITION. The shared operations: updates of one unit, the streams, the command-error update (this
hardware's only exception), the end of an access, the register map and its reads and writes. -/

namespace Sys2Proof.Machine

/-- ERR and ERR_CMD replaced. -/
def State.setErrUnit (s : State) (u : ErrUnit) : State := { s with err := u }

/-- The tone generator replaced. -/
def State.setTg (s : State) (u : ToneUnit) : State := { s with tg := u }

/-- The demodulator replaced. -/
def State.setDm (s : State) (u : DemodUnit) : State := { s with dm := u }

/-- The voter replaced. -/
def State.setVt (s : State) (u : VoterUnit) : State := { s with vt := u }

/-- The Golay unit replaced. -/
def State.setGol (s : State) (u : GolayUnit) : State := { s with gol := u }

/-- The CRC engine replaced. -/
def State.setCrc (s : State) (u : CrcUnit) : State := { s with crc := u }

/-- The ASCII codec replaced. -/
def State.setAsc (s : State) (u : AsciiUnit) : State := { s with asc := u }

/-- `emit_TX` for each sample in order: appended to TX_OUT (R13, R59, R80). -/
def State.emitTx (s : State) (xs : List Sample) : State := { s with txOut := s.txOut ++ xs }

/-- `emit_SYM`: one record appended to SYM_OUT (R13, R59, R80). -/
def State.emitSym (s : State) (r : SymRecord) : State := { s with symOut := s.symOut ++ [r] }

/-- The access at the front of the queue has completed (R75: "The host's write completes only when the
command has finished"). -/
def State.retire (s : State) : State := { s with pending := s.pending.tail }

/-- A read's value handed to the host (R73). -/
def State.reply (s : State) (v : Word) : State := { s with replies := s.replies ++ [v] }

/-- The ready inputs take their next planned values (R80, R366; log 5). -/
def State.sense (s : State) : State :=
  { s with ready := s.readyPlan.headD s.ready, readyPlan := s.readyPlan.tail }

/-- Every register of every unit at its reset value; the streams keep what they hold (R311, R360). -/
def State.resetUnits (s : State) : State :=
  { s with err := .reset, tg := .reset, dm := .reset, vt := .reset, gol := .reset, crc := .reset,
           asc := .reset }

/-- The CmdError update (R331), the one way this hardware takes an exception: the word of the first
failing command since ERR was 0 is captured, the error's bit is set, and nothing else changes. There is
no return from it beside clearing ERR (R334, R336). -/
def State.raiseCmdError (s : State) (e : CmdErr) (cmd : Word) : State :=
  s.setErrUnit
    { err := setErr s.err.err e
      errCmd := if s.err.err = 0 then cmd else s.err.errCmd }

/-- The error return: a write of v to ERR clears the bits that are 1 in v (R35, R74, R334). -/
def State.clearErrBits (s : State) (v : Word) : State :=
  s.setErrUnit { s.err with err := clearErr s.err.err v }

/-- The registers of the window (R71). -/
inductive Reg where
  | id | cmd | err | errCmd | tgAmp
  | tgPhase (i : Fin 8)
  | dmSym | dmPeak | dmNoise | dmSnr | dmSidx | dmCount
  | vtWord | vtErrs | golRes | golStat
  | crcState | crcValue | crcExpect | crcStat | ascRes | ascStat
  | mag (i : Fin 64)
  | vtSym (i : Fin 147)
deriving DecidableEq, Repr

/-- The byte offset of a register (R71). -/
def Reg.offset : Reg → Nat
  | .id => 0x000
  | .cmd => 0x004
  | .err => 0x008
  | .errCmd => 0x00C
  | .tgAmp => 0x010
  | .tgPhase i => 0x020 + 4 * i.val
  | .dmSym => 0x040
  | .dmPeak => 0x044
  | .dmNoise => 0x048
  | .dmSnr => 0x04C
  | .dmSidx => 0x050
  | .dmCount => 0x054
  | .vtWord => 0x060
  | .vtErrs => 0x064
  | .golRes => 0x070
  | .golStat => 0x074
  | .crcState => 0x080
  | .crcValue => 0x084
  | .crcExpect => 0x088
  | .crcStat => 0x08C
  | .ascRes => 0x090
  | .ascStat => 0x094
  | .mag i => 0x100 + 4 * i.val
  | .vtSym i => 0x200 + 4 * i.val

/-- The register at an offset that belongs to no array; none at a reserved offset (R71). -/
def Reg.single? : Nat → Option Reg
  | 0x000 => some .id
  | 0x004 => some .cmd
  | 0x008 => some .err
  | 0x00C => some .errCmd
  | 0x010 => some .tgAmp
  | 0x040 => some .dmSym
  | 0x044 => some .dmPeak
  | 0x048 => some .dmNoise
  | 0x04C => some .dmSnr
  | 0x050 => some .dmSidx
  | 0x054 => some .dmCount
  | 0x060 => some .vtWord
  | 0x064 => some .vtErrs
  | 0x070 => some .golRes
  | 0x074 => some .golStat
  | 0x080 => some .crcState
  | 0x084 => some .crcValue
  | 0x088 => some .crcExpect
  | 0x08C => some .crcStat
  | 0x090 => some .ascRes
  | 0x094 => some .ascStat
  | _ => none

/-- The register at an offset; none at a reserved offset (R71). -/
def Reg.ofOffset? (a : Nat) : Option Reg :=
  if a % 4 ≠ 0 then none
  else if h : 0x020 ≤ a ∧ a < 0x040 then some (.tgPhase ⟨(a - 0x020) / 4, by omega⟩)
  else if h : 0x100 ≤ a ∧ a < 0x200 then some (.mag ⟨(a - 0x100) / 4, by omega⟩)
  else if h : 0x200 ≤ a ∧ a < 0x44C then some (.vtSym ⟨(a - 0x200) / 4, by omega⟩)
  else Reg.single? a

/-- The ID constant, "FSK8" in ASCII from bit 31 down (R33). -/
def idValue : Word := 0x46534B38

/-- CRC_VALUE = CRC_STATE xor 0xFFFFFFFF (R53). -/
def CrcUnit.value (u : CrcUnit) : Word :=
  u.state ^^^ 0xFFFFFFFF

/-- What a read of a register returns (R73, R33-R57). CMD reads 0. -/
def Reg.read (s : State) : Reg → Word
  | .id => idValue
  | .cmd => 0
  | .err => s.err.err.setWidth 32
  | .errCmd => s.err.errCmd
  | .tgAmp => s.tg.amp.setWidth 32
  | .tgPhase i => s.tg.phase[i]
  | .dmSym => s.dm.sym.toWord
  | .dmPeak => s.dm.peak
  | .dmNoise => s.dm.noise
  | .dmSnr => s.dm.snr
  | .dmSidx => s.dm.sidx
  | .dmCount => s.dm.count
  | .vtWord => s.vt.word.setWidth 32
  | .vtErrs => s.vt.errs.setWidth 32
  | .golRes => s.gol.res.setWidth 32
  | .golStat => s.gol.stat.toWord
  | .crcState => s.crc.state
  | .crcValue => s.crc.value
  | .crcExpect => s.crc.expect
  | .crcStat => crcStatWord s.crc.mtch
  | .ascRes => s.asc.res
  | .ascStat => s.asc.stat.toWord
  | .mag i => s.dm.mag[i]
  | .vtSym i => s.vt.sym[i].setWidth 32

/-- `MemRead(a, 4)`: the register at the offset, and 0 at a reserved one (R73). -/
def memRead (s : State) (a : Nat) : Word :=
  match Reg.ofOffset? a with
  | some r => r.read s
  | none => 0

/-- What `MemWrite(a, 4, v)` does at an offset other than CMD's (R74): ERR is write-1-to-clear, TG_AMP takes
v[15:0], CRC_EXPECT takes v, and no other register or reserved offset changes. -/
def memWrite (s : State) (a : Nat) (v : Word) : State :=
  match Reg.ofOffset? a with
  | some .err => s.clearErrBits v
  | some .tgAmp => s.setTg { s.tg with amp := v.setWidth 16 }
  | some .crcExpect => s.setCrc { s.crc with expect := v }
  | _ => s

/-- Why the bus protocol has no step for an access (R72, R82, R341, ID9, ID11); none for an access of the
protocol. When several reasons hold, the first in this order is named (log 13). -/
def BusAccess.refusal? (b : BusAccess) : Option Refusal :=
  if b.agent ≠ .host then some .secondAgent
  else if b.width ≠ 32 then some .notA32BitAccess
  else if b.offset % 4 ≠ 0 then some .misaligned
  else if 0xFFF < b.offset then some .outsideWindow
  else none

end Sys2Proof.Machine
end

