-- ==== Sys2Proof/Machine/AsciiCodec.lean ====
section
/-! DEFINITION. The restricted-ASCII codec (45_ascii_codec.md). -/

namespace Sys2Proof.Machine

/-- `isRA(c)`: c is one of the 42 restricted-ASCII codepoints (R270, R271). -/
def isRA (c : Byte) : Bool :=
  let n := c.toNat
  n == 0x20
    || (decide (0x2D ≤ n) && decide (n ≤ 0x2F))
    || (decide (0x30 ≤ n) && decide (n ≤ 0x39))
    || n == 0x3F || n == 0x40
    || (decide (0x41 ≤ n) && decide (n ≤ 0x5A))

/-- ASC_ENC's results (R272): the payload, or the sentinel 0xFFFFFFFF. -/
def asciiEncode (c0 c1 c2 : Byte) : AsciiUnit :=
  if isRA c0 && isRA c1 && isRA c2 then
    { res := (packChars c0 c1 c2).setWidth 32, stat := { invalid := false, op := false } }
  else { res := 0xFFFFFFFF, stat := { invalid := true, op := false } }

/-- ASC_DEC's results (R273): the three characters, or "???". -/
def asciiDecode (payload : BitVec 21) : AsciiUnit :=
  let c0 := payloadC0 payload
  let c1 := payloadC1 payload
  let c2 := payloadC2 payload
  if isRA c0 && isRA c1 && isRA c2 then
    { res := c0.setWidth 32 ||| c1.setWidth 32 <<< 8 ||| c2.setWidth 32 <<< 16
      stat := { invalid := false, op := true } }
  else { res := 0x003F3F3F, stat := { invalid := true, op := true } }

/-- ASC_ENC c0c1c2 (R272). -/
def execAscEnc (c0 c1 c2 : Byte) (s : State) : Host.Outcome State Fault Refusal :=
  .next (s.setAsc (asciiEncode c0 c1 c2)).retire

/-- ASC_DEC payload (R273). -/
def execAscDec (payload : BitVec 21) (s : State) : Host.Outcome State Fault Refusal :=
  .next (s.setAsc (asciiDecode payload)).retire

end Sys2Proof.Machine
end

