-- ==== Sys2Proof/Machine/Control.lean ====
section
/-! DEFINITION. The control commands (47_control.md). -/

namespace Sys2Proof.Machine

/-- NOP (R310): "no state changes". Its CMD write completes. -/
def execNop (s : State) : Host.Outcome State Fault Refusal :=
  .next s.retire

/-- SYS_RESET (R311): every register at its reset value, ERR and ERR_CMD included; the streams and the
constant tables stay. -/
def execSysReset (s : State) : Host.Outcome State Fault Refusal :=
  .next s.resetUnits.retire

end Sys2Proof.Machine
end

