-- ==== Sys2Proof/Machine/Crc32.lean ====
section
/-! DEFINITION. The CRC-32 engine (46_crc32.md). -/

namespace Sys2Proof.Machine

/-- POLY (R290). -/
def crcPoly : Word := 0x04C11DB7

/-- One pass of the loop of R291: shift left, and XOR with POLY if bit 31 was 1. -/
def crcShift (st : Word) : Word :=
  if st.getLsbD 31 then st <<< 1 ^^^ crcPoly else st <<< 1

/-- `repeat n times` the pass (R291). -/
def crcShifts : Nat → Word → Word
  | 0, st => st
  | n + 1, st => crcShifts n (crcShift st)

/-- `crc_step(st, b)` (R291). -/
def crcStep (st : Word) (b : Byte) : Word :=
  crcShifts 8 (st ^^^ b.setWidth 32 <<< 24)

/-- The state after a byte string, in wire order (R291). -/
def crcFeed (st : Word) (bytes : List Byte) : Word :=
  bytes.foldl crcStep st

/-- The CRC of a byte string: initial value and final XOR 0xFFFFFFFF (R290, R291). -/
def crc32 (bytes : List Byte) : Word :=
  crcFeed 0xFFFFFFFF bytes ^^^ 0xFFFFFFFF

/-- CRC_INIT (R292). CRC_EXPECT stays. -/
def execCrcInit (s : State) : Host.Outcome State Fault Refusal :=
  .next (s.setCrc { s.crc with state := 0xFFFFFFFF, mtch := false }).retire

/-- CRC_BYTE byte (R293). -/
def execCrcByte (byte : Byte) (s : State) : Host.Outcome State Fault Refusal :=
  .next (s.setCrc { s.crc with state := crcStep s.crc.state byte, mtch := false }).retire

/-- CRC_CHECK (R294). CRC_STATE stays. -/
def execCrcCheck (s : State) : Host.Outcome State Fault Refusal :=
  .next (s.setCrc { s.crc with mtch := s.crc.value == s.crc.expect }).retire

end Sys2Proof.Machine
end

