-- ==== Sys2Proof/Machine/Arith.lean ====
section
/-! DEFINITION. Exact integer functions of 00_scope.md R12 that several units use. -/

namespace Sys2Proof.Machine

/-- The largest `k < acc + 2 ^ bits`, reached from `acc` bit by bit, that satisfies a downward closed
test; `acc` itself if no larger one does. -/
def searchBits (test : Nat → Bool) : Nat → Nat → Nat
  | 0, acc => acc
  | bits + 1, acc =>
    if test (acc + 2 ^ bits) then searchBits test bits (acc + 2 ^ bits)
    else searchBits test bits acc

/-- `isqrt(n)`, the largest r with r·r ≤ n (R12). -/
def isqrt (n : Nat) : Nat :=
  searchBits (fun r => decide (r * r ≤ n)) (n.log2 / 2 + 1) 0

/-- `clamp(v, lo, hi) = min(max(v, lo), hi)` (R12). -/
def clamp (v lo hi : Int) : Int :=
  min (max v lo) hi

/-- `popcount(v)`, the number of 1 bits (R12). -/
def popcount {w : Nat} (v : BitVec w) : Nat :=
  ((List.range w).filter fun i => v.getLsbD i).length

/-- `maj(a, b, c)` on bits: 1 iff at least two are 1 (R12, R220). -/
def maj (a b c : Bool) : Bool :=
  decide (2 ≤ a.toNat + b.toNat + c.toNat)

end Sys2Proof.Machine
end

