-- ==== Sys2Proof/Machine/GolayCode.lean ====
section
/-! DEFINITION. The extended Golay (24,12) encoder and syndrome decoder (44_golay.md). -/

namespace Sys2Proof.Machine

/-- GOLAY_PARITY[info]: the XOR of the rows i with info[i] = 1 (R241). -/
def golayParity (rows : Vector (BitVec 12) 12) (info : BitVec 12) : BitVec 12 :=
  (List.finRange 12).foldl (fun acc i => if info.getLsbD i.val then acc ^^^ rows[i] else acc) 0

/-- The codeword of an info word: `info | GOLAY_PARITY[info] << 12` (R240). -/
def golayCodeword (rows : Vector (BitVec 12) 12) (info : BitVec 12) : BitVec 24 :=
  (golayParity rows info ++ info : BitVec (12 + 12))

/-- The info half of a 24-bit word, bits 11:0 (R240). -/
def infoOf (r : BitVec 24) : BitVec 12 :=
  r.extractLsb' 0 12

/-- The parity half of a 24-bit word, bits 23:12 (R240). -/
def parityOf (r : BitVec 24) : BitVec 12 :=
  r.extractLsb' 12 12

/-- `syndrome(r) = r[23:12] xor GOLAY_PARITY[r[11:0]]` (R243). -/
def syndrome (rows : Vector (BitVec 12) 12) (r : BitVec 24) : BitVec 12 :=
  parityOf r ^^^ golayParity rows (infoOf r)

/-- The sets of `w` positions out of an ascending list, in lexicographic order (R242). -/
def positionSets : Nat → List Nat → List (List Nat)
  | 0, _ => [[]]
  | _ + 1, [] => []
  | w + 1, p :: ps => (positionSets w ps).map (p :: ·) ++ positionSets (w + 1) ps

/-- The pattern with 1s at the given positions: the sum of 2^p (R242). -/
def patternOf (positions : List Nat) : BitVec 24 :=
  BitVec.ofNat 24 (positions.map (2 ^ ·)).sum

/-- The error patterns of weight 1, then 2, then 3, in the order R242 enumerates them. -/
def errorPatterns : List (BitVec 24) :=
  ([1, 2, 3].flatMap fun w => positionSets w (List.range 24)).map patternOf

/-- SYNDROME_ROM as R242 builds it: one pattern after another, entered if its syndrome is not 0 and has no
entry yet. -/
def buildSyndromeRom (rows : Vector (BitVec 12) 12) : List (BitVec 12 × BitVec 24) :=
  errorPatterns.foldl
    (fun rom e =>
      let syn := syndrome rows e
      if syn ≠ 0 ∧ rom.lookup syn = none then rom ++ [(syn, e)] else rom)
    []

/-- The entry of SYNDROME_ROM for a syndrome: the first pattern of the enumeration that has it ("first
discovered wins", R242); none for syndrome 0 and for an uncorrectable one. -/
def syndromeRom (rows : Vector (BitVec 12) 12) (syn : BitVec 12) : Option (BitVec 24) :=
  if syn = 0 then none else errorPatterns.find? fun e => syndrome rows e == syn

/-- GOL_DEC's results (R245). -/
def golayDecode (rows : Vector (BitVec 12) 12) (rx : BitVec 24) : GolayUnit :=
  if syndrome rows rx = 0 then
    { res := (infoOf rx).setWidth 24, stat := { nerr := 0, uncorr := false, op := true } }
  else
    match syndromeRom rows (syndrome rows rx) with
    | some e =>
      { res := (infoOf (rx ^^^ e)).setWidth 24
        stat := { nerr := BitVec.ofNat 4 (popcount e), uncorr := false, op := true } }
    | none => { res := (infoOf rx).setWidth 24, stat := { nerr := 0, uncorr := true, op := true } }

/-- GOL_ENC info (R244). -/
def execGolEnc (info : BitVec 12) (s : State) : Host.Outcome State Fault Refusal :=
  .next <|
    (s.setGol
      { res := golayCodeword s.params.golayRows info
        stat := { nerr := 0, uncorr := false, op := false } }).retire

/-- GOL_DEC rx (R245). -/
def execGolDec (rx : BitVec 24) (s : State) : Host.Outcome State Fault Refusal :=
  .next (s.setGol (golayDecode s.params.golayRows rx)).retire

end Sys2Proof.Machine
end

