-- ==== Sys2Proof/Machine/SymbolDetector.lean ====
section
/-! DEFINITION. The symbol detector (42_symbol_detector.md). It has no command of its own. -/

namespace Sys2Proof.Machine

/-- Whether a bin is in the detector band 6..13 (R201). -/
def inBand (k : Fin 64) : Bool :=
  decide (6 ≤ k.val) && decide (k.val ≤ 13)

/-- The band bins 6..13, ascending (R201). -/
def bandBins : List (Fin 64) :=
  (List.finRange 64).filter inBand

/-- The 58 bins outside the band (R204). -/
def noiseBins : List (Fin 64) :=
  (List.finRange 64).filter fun k => !inBand k

/-- `mx = max(MAG[6..13])` (R201). -/
def bandMax (mag : Vector Word 64) : Nat :=
  (bandBins.map fun k => mag[k].toNat).foldl max 0

/-- `W = [k in 6..13 | MAG[k] = mx]`, ascending (R201, R206). -/
def winners (mag : Vector Word 64) : List (Fin 64) :=
  bandBins.filter fun k => mag[k].toNat == bandMax mag

/-- `NOISE = max(1, min of MAG over the bins outside the band)` (R204). The fold starts at the largest
value a magnitude can have. -/
def noiseFloor (mag : Vector Word 64) : Nat :=
  max 1 ((noiseBins.map fun k => mag[k].toNat).foldl min (2 ^ 32 - 1))

/-- Success under the tie policy (R202, R206). -/
def detectOk (policy : TiePolicy) (mag : Vector Word 64) : Bool :=
  match policy with
  | .strict => (winners mag).length == 1
  | .lowestNonzero => decide (0 < bandMax mag)

/-- `SNR_ref(p, n) = floor(256 · 20 · log10(p / n) + 1/2)` exactly (R205): the largest y with
10^(2y - 1) · n^10240 ≤ p^10240, searched for as y + 2^16. Meant for p ≥ 1 and n ≥ 1. -/
def snrRef (p n : Nat) : Int :=
  (searchBits
    (fun k => decide (10 ^ (2 * k) * n ^ 10240 ≤ p ^ 10240 * 10 ^ (2 * 2 ^ 16 + 1))) 17 0 : Nat)
    - 2 ^ 16

/-- SNR_FN as the parameter chooses it (R10, R205). -/
def snr (fn : SnrFn) (p n : Word) : Word :=
  match fn with
  | .reference => BitVec.ofInt 32 (snrRef p.toNat n.toNat)
  | .other => Config.otherSnr p n

/-- What the detector answers (R200): the record without its sample index. -/
structure Detection where
  sym   : BitVec 3
  valid : Bool
  peak  : Word
  noise : Word
  snr   : Word
deriving DecidableEq, Repr

/-- `detect(MAG)` (R206): the winner, or the failure marker of R207. -/
def detect (p : Params) (mag : Vector Word 64) : Detection :=
  let noise := BitVec.ofNat 32 (noiseFloor mag)
  match detectOk p.tiePolicy mag, winners mag with
  | true, pk :: _ =>
    let peak := BitVec.ofNat 32 (bandMax mag)
    { sym := BitVec.ofNat 3 (pk.val - 6), valid := true, peak := peak, noise := noise,
      snr := snr p.snrFn peak noise }
  | _, _ => { sym := 0, valid := false, peak := 0, noise := noise, snr := 0 }

end Sys2Proof.Machine
end

