-- ==== Sys2Proof/Machine/SpectralEstimator.lean ====
section
/-! DEFINITION. The sliding spectral estimator and the demodulator commands (41_spectral_estimator.md). -/

namespace Sys2Proof.Machine

/-- `re[k] = sum of w[n] · COS64[(k·n) mod 64]`, exact (R174). -/
def dftRe (w : Vector Sample 64) (k : Nat) : Int :=
  ((List.finRange 64).map fun n => sampleValue w[n] * cos64 (k * n.val % 64)).sum

/-- `im[k] = - sum of w[n] · SIN64[(k·n) mod 64]`, exact (R174). -/
def dftIm (w : Vector Sample 64) (k : Nat) : Int :=
  -((List.finRange 64).map fun n => sampleValue w[n] * sin64 (k * n.val % 64)).sum

/-- `raw[k] = floor(isqrt(re² + im²) / 2^7)` (R176). -/
def rawMag (w : Vector Sample 64) (k : Nat) : Nat :=
  isqrt (dftRe w k ^ 2 + dftIm w k ^ 2).toNat / 2 ^ 7

/-- `floor((4·MAG + raw + 2) / 5)` (R177). -/
def smooth (mag raw : Nat) : Nat :=
  (4 * mag + raw + 2) / 5

/-- The smoothed magnitudes after a block (R173, R177). -/
def smoothAll (mag : Vector Word 64) (w : Vector Sample 64) : Vector Word 64 :=
  Vector.ofFn fun k => BitVec.ofNat 32 (smooth mag[k].toNat (rawMag w k.val))

/-- `complete_block()` on a demodulator whose window holds the block and whose count is already advanced
(R173): the demodulator after it, and the record to emit. -/
def DemodUnit.completeBlock (p : Params) (d : DemodUnit) : DemodUnit × SymRecord :=
  let mag := smoothAll d.mag d.win
  let r := detect p mag
  let sidx := d.count - 64
  ({ d with
      mag := mag
      sym := { sym := r.sym, valid := r.valid, block := true }
      peak := r.peak
      noise := r.noise
      snr := r.snr
      sidx := sidx },
   { sym := r.sym, valid := r.valid, peak := r.peak, noise := r.noise, snr := r.snr, sidx := sidx })

/-- The first two lines of DM_PUSH (R172): the sample into the window, the count advanced mod 2^32. -/
def DemodUnit.store (d : DemodUnit) (x : Sample) : DemodUnit :=
  { d with win := d.win.set (winPos d.count) x, count := d.count + 1 }

/-- Whether the next push completes a block: it makes DM_COUNT[5:0] = 0 (R44, R172). -/
def DemodUnit.atBoundary (d : DemodUnit) : Bool :=
  winPos (d.count + 1) == 0

/-- A push that completes no block clears BLOCK and leaves the rest of the record (R172). -/
def DemodUnit.clearBlock (d : DemodUnit) : DemodUnit :=
  { d with sym := { d.sym with block := false } }

/-- DM_RESET (R171): the whole demodulator to 0; SYM_OUT stays. -/
def execDmReset (s : State) : Host.Outcome State Fault Refusal :=
  .next (s.setDm .reset).retire

/-- DM_PUSH sample (R172, R173). At a block boundary the command emits one record, and it is held, without
a state change, while the consumer of SYM_OUT refuses (R80, R366). -/
def execDmPush (sample : Sample) (s : State) : Host.Outcome State Fault Refusal :=
  .next <|
    if s.dm.atBoundary then
      if s.ready.sym then
        let done := (s.dm.store sample).completeBlock s.params
        ((s.setDm done.1).emitSym done.2).retire
      else s
    else (s.setDm (s.dm.store sample).clearBlock).retire

end Sys2Proof.Machine
end

