-- ==== Sys2Proof/Machine/ToneGenerator.lean ====
section
/-! DEFINITION. The tone generator (40_tone_generator.md). -/

namespace Sys2Proof.Machine

/-- INC[s] = (6 + s) · 2^26 (R141). -/
def toneInc (sym : BitVec 3) : Word :=
  BitVec.ofNat 32 ((6 + sym.toNat) * 2 ^ 26)

/-- The sample at a phase and an amplitude (R142): table lookup, linear interpolation by floor, scaling
rounded half up, clamp. Division by a positive constant is floor (R17). -/
def toneSample (amp : BitVec 16) (ph : Word) : Sample :=
  let idx := phaseIndex ph
  let a := sineRom idx
  let b := sineRom (idx + 1)
  let v : Int := a + (b - a) * (phaseFrac ph).toNat / 2 ^ 24
  let y : Int := (v * amp.toNat + 2 ^ 14) / 2 ^ 15
  BitVec.ofInt 16 (clamp y (-32768) 32767)

/-- `tg_sample(s)` (R142): the sample of tone s at the phase before the increment, and the accumulator of
tone s advanced. -/
def ToneUnit.sample (u : ToneUnit) (sym : BitVec 3) : Sample × ToneUnit :=
  (toneSample u.amp u.phase[toneIx sym],
   { u with phase := u.phase.set (toneIx sym) (u.phase[toneIx sym] + toneInc sym) })

/-- `repeat N times: tg_sample(SYM)` (R144): the samples in order, and the tone generator after them. -/
def ToneUnit.samples (sym : BitVec 3) : Nat → ToneUnit → List Sample × ToneUnit
  | 0, u => ([], u)
  | n + 1, u =>
    let one := u.sample sym
    let rest := ToneUnit.samples sym n one.2
    (one.1 :: rest.1, rest.2)

/-- n samples of a tone emitted to TX_OUT (R144, R147). While the consumer of TX_OUT refuses, a command
that emits is held: no state change, and the access stays at the front of the queue (R80, R366). -/
def State.playTone (s : State) (sym : BitVec 3) (n : Nat) : State :=
  if n = 0 ∨ s.ready.tx then
    let run := ToneUnit.samples sym n s.tg
    ((s.setTg run.2).emitTx run.1).retire
  else s

/-- TG_RESET (R143): all accumulators to 0; TG_AMP stays. -/
def execTgReset (s : State) : Host.Outcome State Fault Refusal :=
  .next (s.setTg { s.tg with phase := Vector.replicate 8 0 }).retire

/-- TG_TONE sym, n (R144). -/
def execTgTone (sym : BitVec 3) (n : Nat) (s : State) : Host.Outcome State Fault Refusal :=
  .next (s.playTone sym n)

/-- TG_SYMBOL sym (R147): "exactly that of TG_TONE SYM, 64". -/
def execTgSymbol (sym : BitVec 3) (s : State) : Host.Outcome State Fault Refusal :=
  .next (s.playTone sym 64)

end Sys2Proof.Machine
end

