-- ==== Sys2Proof/Machine/Voter.lean ====
section
/-! DEFINITION. The triple-redundancy majority voter (43_majority_voter.md). -/

namespace Sys2Proof.Machine

/-- The bit the voter reads for word bit b from copy c: bit (b mod 3) of symbol b + 49·c (R222, R223). -/
def voteBit (sym : Vector (BitVec 3) 147) (b : Fin 24) (c : Fin 3) : Bool :=
  (sym[b.val + 49 * c.val]'(by omega)).getLsbD (b.val % 3)

/-- The majority of the three copies of word bit b (R222). -/
def votedBit (sym : Vector (BitVec 3) 147) (b : Fin 24) : Bool :=
  maj (voteBit sym b 0) (voteBit sym b 1) (voteBit sym b 2)

/-- Whether the copies of word bit b differ: `not (a0 = a1 and a1 = a2)` (R222). -/
def copiesDiffer (sym : Vector (BitVec 3) 147) (b : Fin 24) : Bool :=
  !(voteBit sym b 0 == voteBit sym b 1 && voteBit sym b 1 == voteBit sym b 2)

/-- The voted word: bit b is the majority of bit b's copies (R222, R224). -/
def votedWord (sym : Vector (BitVec 3) 147) : BitVec 24 :=
  (List.finRange 24).foldl
    (fun word b => word ||| (BitVec.ofBool (votedBit sym b)).setWidth 24 <<< b.val) 0

/-- The number of word bits whose copies differ, 0..24 (R222). -/
def disagreements (sym : Vector (BitVec 3) 147) : Nat :=
  ((List.finRange 24).filter fun b => copiesDiffer sym b).length

/-- VT_LOAD idx, sym (R221). IDX above 146 raises RANGE, whose ERR_CMD word is the command's own word. -/
def execVtLoad (idx : Nat) (sym : BitVec 3) (s : State) : Host.Outcome State Fault Refusal :=
  .next <|
    if h : idx ≤ 146 then
      (s.setVt { s.vt with sym := s.vt.sym.set idx sym (by omega) }).retire
    else (s.raiseCmdError .range (encode (.vtLoad idx sym))).retire

/-- VT_RUN (R222). -/
def execVtRun (s : State) : Host.Outcome State Fault Refusal :=
  .next <|
    (s.setVt
      { s.vt with
        word := votedWord s.vt.sym
        errs := BitVec.ofNat 5 (disagreements s.vt.sym) }).retire

end Sys2Proof.Machine
end

