-- ==== Sys2Proof/Machine/Dispatch.lean ====
section
/-! DEFINITION. One arm per command. -/

namespace Sys2Proof.Machine

/-- What the command at the front of the queue does to the machine. -/
def exec (i : Instr) (s : State) : Host.Outcome State Fault Refusal :=
  match i with
  | .nop => Sys2Proof.Machine.execNop s
  | .sysReset => Sys2Proof.Machine.execSysReset s
  | .tgReset => Sys2Proof.Machine.execTgReset s
  | .tgTone sym n => Sys2Proof.Machine.execTgTone sym n s
  | .tgSymbol sym => Sys2Proof.Machine.execTgSymbol sym s
  | .dmReset => Sys2Proof.Machine.execDmReset s
  | .dmPush sample => Sys2Proof.Machine.execDmPush sample s
  | .vtLoad idx sym => Sys2Proof.Machine.execVtLoad idx sym s
  | .vtRun => Sys2Proof.Machine.execVtRun s
  | .golEnc info => Sys2Proof.Machine.execGolEnc info s
  | .golDec rx => Sys2Proof.Machine.execGolDec rx s
  | .ascEnc c0 c1 c2 => Sys2Proof.Machine.execAscEnc c0 c1 c2 s
  | .ascDec payload => Sys2Proof.Machine.execAscDec payload s
  | .crcInit => Sys2Proof.Machine.execCrcInit s
  | .crcByte byte => Sys2Proof.Machine.execCrcByte byte s
  | .crcCheck => Sys2Proof.Machine.execCrcCheck s

end Sys2Proof.Machine
end

