-- ==== Sys2Proof/Machine/Step.lean ====
section
/-! DEFINITION. One step: the next bus access of the host (R7). -/

namespace Sys2Proof.Machine

/-- `execute(v)` (R75): decode the word; an undefined opcode or a reserved bit raises its command error,
which ends the command; otherwise the command runs. -/
def execute (v : Word) (s : State) : Host.Outcome State Fault Refusal :=
  match decode v with
  | .error e => .next (s.raiseCmdError e v).retire
  | .ok i => exec i s

/-- One access of the bus protocol: a read replies and changes no register (R73), a write of CMD executes
a command (R75), any other write does what R74 says. -/
def perform (b : BusAccess) (s : State) : Host.Outcome State Fault Refusal :=
  match b.op with
  | .read => .next (s.reply (memRead s b.offset)).retire
  | .write v =>
    if b.offset = Reg.cmd.offset then execute v s else .next (memWrite s b.offset v).retire

/-- The access at the front of the queue: refused if it is outside the bus protocol (R72, R82), performed
otherwise; with no access pending nothing happens (log 2). -/
def serve (s : State) : Host.Outcome State Fault Refusal :=
  match s.pending with
  | [] => .next s
  | b :: _ =>
    match b.refusal? with
    | some r => .refused r
    | none => perform b s

/-- One step of the machine: the ready inputs take their next values, then one bus access (R7). -/
def step (s : State) : Host.Outcome State Fault Refusal :=
  serve s.sense

/-- The state with a 32-bit write of the word to CMD put at the front of the host's accesses: the next step
executes exactly that command (R34, R75). -/
def State.withFetchWord (s : State) (nbits w : Nat) : State :=
  { s with
    pending :=
      { agent := .host, width := 32, offset := Reg.cmd.offset,
        op := .write (tableWord nbits w) } :: s.pending }

end Sys2Proof.Machine
end

