-- ==== Sys2Proof/Machine/Pseudo.lean ====
section
/-! DEFINITION. The host's written forms of accesses (R117) and the pseudo-instructions as the lists of bus
accesses they expand to (R118). -/

namespace Sys2Proof.Machine

/-- `WR NAME, value` (R117). -/
def wr (r : Reg) (v : Word) : BusAccess :=
  { agent := .host, width := 32, offset := r.offset, op := .write v }

/-- `RD NAME` (R117). -/
def rd (r : Reg) : BusAccess :=
  { agent := .host, width := 32, offset := r.offset, op := .read }

/-- A command line: `MemWrite(0x004, 4, encoding)` (R117). -/
def cmdLine (i : Instr) : BusAccess :=
  wr .cmd (encode i)

/-- The chunks of a sample count: every chunk 65535 except the last (R118). A count of 0 is one chunk of 0. -/
def toneChunks (n : Nat) : List Nat :=
  List.replicate ((n - 1) / 65535) 65535 ++ [n - (n - 1) / 65535 * 65535]

/-- `GEN_TONE sym, n, amp` (R118). -/
def genTone (sym : BitVec 3) (n : Nat) (amp : BitVec 16) : List BusAccess :=
  wr .tgAmp (amp.setWidth 32) :: (toneChunks n).map fun m => cmdLine (.tgTone sym m)

/-- `GEN_SYMBOLS amp, s0, ..., s(k-1)` (R118). -/
def genSymbols (amp : BitVec 16) (syms : List (BitVec 3)) : List BusAccess :=
  wr .tgAmp (amp.setWidth 32) :: syms.map fun sym => cmdLine (.tgSymbol sym)

/-- `PROCESS_AUDIO x0, ..., x(m-1)` (R118). -/
def processAudio (xs : List Sample) : List BusAccess :=
  xs.map fun x => cmdLine (.dmPush x)

/-- `VOTE s0, ..., s146` (R118). -/
def vote (syms : Vector (BitVec 3) 147) : List BusAccess :=
  ((List.finRange 147).map fun i => cmdLine (.vtLoad i.val syms[i])) ++ [cmdLine .vtRun]

/-- `CRC_GEN b0, ..., b(L-1)`, with the read that gives the CRC (R118). -/
def crcGen (bytes : List Byte) : List BusAccess :=
  cmdLine .crcInit :: bytes.map (fun b => cmdLine (.crcByte b)) ++ [rd .crcValue]

/-- `CRC_VALIDATE` of the bytes before the trailing four, and of the trailing four (R118). -/
def crcValidate (body : List Byte) (t0 t1 t2 t3 : Byte) : List BusAccess :=
  cmdLine .crcInit :: body.map (fun b => cmdLine (.crcByte b))
    ++ [wr .crcExpect (ofWireBytes t0 t1 t2 t3), cmdLine .crcCheck, rd .crcStat]

end Sys2Proof.Machine
end

