-- ==== Sys2Proof/Safety.lean ====
section
/-! DEFINITION. The terms the statements use: what a command leaves alone, which states are legal, and when
the host keeps to the bus protocol. -/

namespace Sys2Proof.Machine

/-- The host keeps to the bus protocol: every pending access is a 32-bit access of the host at a multiple
of 4 in the window (R72, R82). -/
def State.inProtocol (s : State) : Bool :=
  s.pending.all fun b => b.refusal?.isNone

/-- The frame of a completed access, seen through the host's reads: every offset of the window reads as
before, but for those in `changed`. The model's own fields: the access is taken off the queue (log 1), and
parameters (log 7), replies (log 3) and the ready inputs (log 4, 5) are as before. What is hidden or streamed
(WIN, TX_OUT, SYM_OUT) is `Quiet`'s part. -/
structure Frame (changed : Nat → Prop) (s t : State) : Prop where
  window    : ∀ a, ¬ changed a → memRead t a = memRead s a
  params    : t.params = s.params
  pending   : t.pending = s.pending.tail
  replies   : t.replies = s.replies
  ready     : t.ready = s.ready
  readyPlan : t.readyPlan = s.readyPlan

/-- The hidden window WIN and both output streams are as before. -/
structure Quiet (s t : State) : Prop where
  win    : t.dm.win = s.dm.win
  txOut  : t.txOut = s.txOut
  symOut : t.symOut = s.symOut

/-- The 240 illegal opcode bytes, range by range as R112 lists them. -/
def illegalByte (n : Nat) : Bool :=
  (decide (0x02 ≤ n) && decide (n ≤ 0x0F)) || (decide (0x13 ≤ n) && decide (n ≤ 0x1F))
    || (decide (0x22 ≤ n) && decide (n ≤ 0x2F)) || (decide (0x32 ≤ n) && decide (n ≤ 0x3F))
    || (decide (0x42 ≤ n) && decide (n ≤ 0x4F)) || (decide (0x52 ≤ n) && decide (n ≤ 0x5F))
    || (decide (0x63 ≤ n) && decide (n ≤ 0xFF))

/-- Each defined opcode byte with the reserved bits of its format (R111, R113). -/
def reservedMasks : List (Nat × Word) :=
  [(0x00, 0xFFFFFF00), (0x01, 0xFFFFFF00), (0x10, 0xFFFFFF00), (0x11, 0x0000F800),
   (0x12, 0xFFFFF800), (0x20, 0xFFFFFF00), (0x21, 0x0000FF00), (0x30, 0xFFF80000),
   (0x31, 0xFFFFFF00), (0x40, 0xFFF00000), (0x41, 0x00000000), (0x50, 0x00000000),
   (0x51, 0xE0000000), (0x60, 0xFFFFFF00), (0x61, 0xFFFF0000), (0x62, 0xFFFFFF00)]

/-- The bits that read as 0 in the registers whose fields do not fill the word (R35-R57, R73). -/
def zeroBits : List (Nat × Word) :=
  [(0x008, 0xFFFFFFF8), (0x010, 0xFFFF0000), (0x040, 0xFFFEFEF8), (0x060, 0xFF000000),
   (0x064, 0xFFFFFFE0), (0x070, 0xFF000000), (0x074, 0xFFFEFEF0), (0x08C, 0xFFFFFFFE),
   (0x094, 0xFFFEFFFE)]

/-- The offset of TG_PHASE[i] (R71). -/
def isTgPhase (a : Nat) : Prop := ∃ i : Fin 8, a = 0x020 + 4 * i.val

/-- The offset of MAG[k] (R71). -/
def isMag (a : Nat) : Prop := ∃ k : Fin 64, a = 0x100 + 4 * k.val

/-- An offset of the DM registers 0x040..0x054 (R71). -/
def isDmReg (a : Nat) : Prop := 0x040 ≤ a ∧ a ≤ 0x054

/-- A bin of the detector band (R201). -/
def BandBin (k : Fin 64) : Prop := 6 ≤ k.val ∧ k.val ≤ 13

/-- R61: every phase accumulator has bits [23:0] = 0. -/
def PhasesOnGrid (s : State) : Prop :=
  ∀ i : Fin 8, phaseFrac s.tg.phase[i] = 0

/-- R175, R177: the smoothed magnitudes and what the detector copies from them are below 2^30. -/
structure MagnitudesBounded (s : State) : Prop where
  mag   : ∀ k : Fin 64, s.dm.mag[k].toNat < 2 ^ 30
  peak  : s.dm.peak.toNat < 2 ^ 30
  noise : s.dm.noise.toNat < 2 ^ 30

/-- The voter's count and the Golay and ASCII results have only the values R48, R50, R51, R56 and R57 give. -/
structure ResultsLegal (s : State) : Prop where
  voterCount  : s.vt.errs.toNat ≤ 24
  golayCount  : s.gol.stat.nerr.toNat ≤ 3
  golayEncode : s.gol.stat.op = false → s.gol.stat.nerr = 0 ∧ s.gol.stat.uncorr = false
  golayUncorr : s.gol.stat.uncorr = true → s.gol.stat.nerr = 0
  golayInfo   : s.gol.stat.op = true → s.gol.res.extractLsb' 12 12 = 0
  sentinel    : s.asc.stat.invalid = true → s.asc.stat.op = false → s.asc.res = 0xFFFFFFFF
  questions   : s.asc.stat.invalid = true → s.asc.stat.op = true → s.asc.res = 0x003F3F3F
  payload     : s.asc.stat.invalid = false → s.asc.stat.op = false → s.asc.res.extractLsb' 21 11 = 0
  characters  : s.asc.stat.invalid = false → s.asc.stat.op = true → s.asc.res.extractLsb' 24 8 = 0

/-- The record the DM registers hold (R39-R43, R59). -/
def State.dmRecord (s : State) : SymRecord where
  sym := s.dm.sym.sym
  valid := s.dm.sym.valid
  peak := s.dm.peak
  noise := s.dm.noise
  snr := s.dm.snr
  sidx := s.dm.sidx

/-- The DM registers hold the record of the last completed block (R39-R43, R173, R207). DM_NOISE tells whether
a block has completed since the last reset: it is 0 before the first one, and at least 1 after it (R204). -/
structure RecordHeld (s : State) : Prop where
  /-- After a failed detection SYM, PEAK and SNR are 0 (R207). -/
  failed    : s.dm.sym.valid = false → s.dm.sym.sym = 0 ∧ s.dm.peak = 0 ∧ s.dm.snr = 0
  /-- After a successful one PEAK and NOISE are at least 1 (R205). -/
  found     : s.dm.sym.valid = true → 1 ≤ s.dm.peak.toNat ∧ 1 ≤ s.dm.noise.toNat
  /-- DM_SIDX is the index of a block's first sample (R43). -/
  index     : s.dm.sidx.toNat % 64 = 0
  /-- While BLOCK is 1 the count is at a block boundary (R39). -/
  aligned   : s.dm.sym.block = true → s.dm.count.toNat % 64 = 0
  /-- BLOCK is 1 only if a block has completed (R39). -/
  completed : s.dm.sym.block = true → s.dm.noise ≠ 0
  /-- Before the first block the registers hold their reset values (R39-R43). -/
  fresh     : s.dm.noise = 0 →
    s.dmRecord = { sym := 0, valid := false, peak := 0, noise := 0, snr := 0, sidx := 0 }
  /-- After one, DM_SIDX lies one block before the block under way (R43, R173). -/
  position  : s.dm.noise ≠ 0 →
    s.dm.sidx = s.dm.count - BitVec.ofNat 32 (s.dm.count.toNat % 64) - 64
  /-- After one, the record is what the detector answers on MAG (R173, R206). -/
  detected  : s.dm.noise ≠ 0 →
    s.dm.sym.sym = (detect s.params s.dm.mag).sym ∧
    s.dm.sym.valid = (detect s.params s.dm.mag).valid ∧
    s.dm.peak = (detect s.params s.dm.mag).peak ∧
    s.dm.noise = (detect s.params s.dm.mag).noise ∧
    s.dm.snr = (detect s.params s.dm.mag).snr
  /-- After one, the record is the newest of SYM_OUT, between boundaries too (R173, R207). -/
  newest    : s.dm.noise ≠ 0 → s.symOut.getLast? = some s.dmRecord

end Sys2Proof.Machine
end

