-- ==== Sys2Proof/Certificates/Slice0/Obligations.lean ====
section
/-! DEFINITION. The statements for the provers. -/

open Sys2Proof Sys2Proof.Machine

/-! ### Encoding -/

/-- R110, R114: the decoder reads back every well-formed command from its word. -/
def Obligations.DecodeReadsBackEncode : Prop :=
  ∀ i : Instr, i.wellFormed = true → decode (encode i) = .ok i

/-- R110, R113, R114: a word that decodes is the word of the command it decodes to, so no bit of it is
dropped and no two words mean the same command. -/
def Obligations.EncodeReadsBackDecode : Prop :=
  ∀ (w : Word) (i : Instr), decode w = .ok i → i.wellFormed = true ∧ encode i = w

/-- R119: the spec's encoding examples, in both directions. -/
def Obligations.EncodingExamplesHold : Prop :=
  ∀ p ∈ ([(.tgTone 3 64, 0x00400311), (.tgSymbol 7, 0x00000712),
      (.dmPush (BitVec.ofInt 16 (-1)), 0xFFFF0021), (.dmPush (BitVec.ofInt 16 22937), 0x59990021),
      (.vtLoad 146 5, 0x00059230), (.golEnc 0xABC, 0x000ABC40), (.golDec 0x91FABD, 0x91FABD41),
      (.ascEnc 0x4B 0x36 0x4B, 0x4B364B50), (.ascDec 0x12DB4B, 0x12DB4B51),
      (.crcByte 0x41, 0x00004161), (.sysReset, 0x00000001)] : List (Instr × Word)),
    encode p.1 = p.2 ∧ decode p.2 = .ok p.1

/-- R112: the 240 illegal opcode bytes are exactly those the spec lists, and a command with one raises
ILLEGAL_OP whatever its other bits hold, and changes nothing else. -/
def Obligations.IllegalOpcodesRaiseIllegalOp : Prop :=
  ((List.range 256).filter illegalByte).length = 240 ∧
  ∀ w : Word,
    (illegalByte (w.toNat % 256) = true ↔ decode w = .error .illegalOp) ∧
    (illegalByte (w.toNat % 256) = true → ∀ s : State, ∃ t, execute w s = .next t ∧
      memRead t 0x008 = memRead s 0x008 ||| 1 ∧
      Frame (fun a => a = 0x008 ∨ a = 0x00C) s t ∧ Quiet s t)

/-- R113: a defined opcode with a reserved bit set, and only that, raises RSVD_NONZERO and changes nothing
else, whatever its operands are. -/
def Obligations.ReservedBitsRaiseRsvdNonzero : Prop :=
  ∀ p ∈ reservedMasks, ∀ w : Word, w.toNat % 256 = p.1 →
    (decode w = .error .rsvdNonzero ↔ w &&& p.2 ≠ 0) ∧
    (w &&& p.2 ≠ 0 → ∀ s : State, ∃ t, execute w s = .next t ∧
      memRead t 0x008 = memRead s 0x008 ||| 2 ∧
      Frame (fun a => a = 0x008 ∨ a = 0x00C) s t ∧ Quiet s t)

/-- R114: each operand is the field of the word the spec names, unscaled; SAMPLE is sign-extended. -/
def Obligations.OperandsAreTheFields : Prop :=
  ∀ w : Word,
    (∀ sym n, decode w = .ok (.tgTone sym n) →
      sym.toNat = w.toNat / 2 ^ 8 % 2 ^ 3 ∧ n = w.toNat / 2 ^ 16 % 2 ^ 16) ∧
    (∀ sym, decode w = .ok (.tgSymbol sym) → sym.toNat = w.toNat / 2 ^ 8 % 2 ^ 3) ∧
    (∀ x, decode w = .ok (.dmPush x) →
      sampleValue x =
        if w.toNat < 2 ^ 31 then (w.toNat / 2 ^ 16 : Int) else (w.toNat / 2 ^ 16 : Int) - 2 ^ 16) ∧
    (∀ idx sym, decode w = .ok (.vtLoad idx sym) →
      idx = w.toNat / 2 ^ 8 % 2 ^ 8 ∧ sym.toNat = w.toNat / 2 ^ 16 % 2 ^ 3) ∧
    (∀ info, decode w = .ok (.golEnc info) → info.toNat = w.toNat / 2 ^ 8 % 2 ^ 12) ∧
    (∀ rx, decode w = .ok (.golDec rx) → rx.toNat = w.toNat / 2 ^ 8) ∧
    (∀ c0 c1 c2, decode w = .ok (.ascEnc c0 c1 c2) →
      c0.toNat = w.toNat / 2 ^ 8 % 2 ^ 8 ∧ c1.toNat = w.toNat / 2 ^ 16 % 2 ^ 8 ∧
        c2.toNat = w.toNat / 2 ^ 24) ∧
    (∀ payload, decode w = .ok (.ascDec payload) → payload.toNat = w.toNat / 2 ^ 8 % 2 ^ 21) ∧
    (∀ byte, decode w = .ok (.crcByte byte) → byte.toNat = w.toNat / 2 ^ 8 % 2 ^ 8)

/-! ### Steps and host accesses -/

/-- R34, R75: when the host's next access is a write of CMD and the word decodes to a command, the step is
that command, in the state whose ready inputs have taken their next planned values (the model's own input
form, log 5). -/
def Obligations.StepRunsTheDecodedCommand : Prop :=
  ∀ (s : State) (v : Word) (i : Instr) (rest : List BusAccess),
    s.pending = { agent := .host, width := 32, offset := 0x004, op := .write v } :: rest →
    decode v = .ok i → step s = exec i s.sense

/-- R74: what a host write does at every offset of the window. That the ready inputs move first (`sense`) is
the model's own form (log 5). -/
def Obligations.HostWriteDoesThis : Prop :=
  ∀ (s : State) (a : Nat) (v : Word) (rest : List BusAccess),
    s.pending = { agent := .host, width := 32, offset := a, op := .write v } :: rest →
    a % 4 = 0 → a ≤ 0xFFC →
    (a = 0x004 → step s = execute v s.sense) ∧
    (a ≠ 0x004 → ∃ t, step s = .next t ∧ Quiet s t ∧
      (a = 0x008 → memRead t 0x008 = memRead s 0x008 &&& ~~~(v &&& 7) ∧
        Frame (fun b => b = 0x008) s.sense t) ∧
      (a = 0x010 → memRead t 0x010 = v &&& 0xFFFF ∧ Frame (fun b => b = 0x010) s.sense t) ∧
      (a = 0x088 → memRead t 0x088 = v ∧ Frame (fun b => b = 0x088) s.sense t) ∧
      (a ≠ 0x008 → a ≠ 0x010 → a ≠ 0x088 → Frame (fun _ => False) s.sense t))

/-- R73: what a host read returns, and that it changes no register: a listed register's value with the bits
that read as 0 equal to 0, the constant for ID (R33), 0 for CMD, CRC_STATE xor 0xFFFFFFFF for CRC_VALUE (R53),
0 at a reserved offset. That the value is appended to `replies` is the model's own form (log 3). -/
def Obligations.HostReadReturnsThis : Prop :=
  ∀ (s : State) (a : Nat) (rest : List BusAccess),
    s.pending = { agent := .host, width := 32, offset := a, op := .read } :: rest →
    a % 4 = 0 → a ≤ 0xFFC →
    (∃ t, step s = .next t ∧ t.replies = s.replies ++ [memRead s a] ∧ t.pending = rest ∧
      (∀ b, memRead t b = memRead s b) ∧ Quiet s t) ∧
    (∀ r : Reg, a = r.offset → memRead s a = r.read s) ∧
    (∀ p ∈ zeroBits, a = p.1 → memRead s a &&& p.2 = 0) ∧
    (∀ k : Fin 147, a = 0x200 + 4 * k.val → memRead s a &&& 0xFFFFFFF8 = 0) ∧
    (a = 0x000 → memRead s a = 0x46534B38) ∧
    (a = 0x004 → memRead s a = 0) ∧
    (a = 0x084 → memRead s a = memRead s 0x080 ^^^ 0xFFFFFFFF) ∧
    ((∀ r : Reg, r.offset ≠ a) → memRead s a = 0)

/-- R72, R82: a step is refused exactly when the next access is outside the bus protocol: not the host's, not
32 bits wide, not at a multiple of 4, or outside the window. -/
def Obligations.RefusedExactlyOutsideTheProtocol : Prop :=
  ∀ (s : State) (b : BusAccess) (rest : List BusAccess), s.pending = b :: rest →
    ((∃ r, step s = .refused r) ↔
      b.agent ≠ .host ∨ b.width ≠ 32 ∨ b.offset % 4 ≠ 0 ∨ 0xFFF < b.offset)

/-- R72, R82, R336: a step of a host that keeps to the bus protocol answers a next state, and there the host
still keeps to it. That a step with nothing pending answers a next state is the model's choice (log 2), and so
is that a step which holds a command does (log 4). -/
def Obligations.ProtocolStepsNeverStop : Prop :=
  ∀ s : State, s.inProtocol = true → ∃ t, step s = .next t ∧ t.inProtocol = true

/-! ### Command errors -/

/-- R331: the CmdError update, and that the two decoding errors and RANGE end a command with exactly it. -/
def Obligations.CommandErrorHasExactlyThisEffect : Prop :=
  (∀ (s : State) (e : CmdErr) (cmd : Word),
    memRead (s.raiseCmdError e cmd) 0x008 = memRead s 0x008 |||
      (match e with | .illegalOp => 1 | .rsvdNonzero => 2 | .range => 4) ∧
    memRead (s.raiseCmdError e cmd) 0x00C =
      (if memRead s 0x008 = 0 then cmd else memRead s 0x00C) ∧
    (∀ a, a ≠ 0x008 → a ≠ 0x00C → memRead (s.raiseCmdError e cmd) a = memRead s a) ∧
    Quiet s (s.raiseCmdError e cmd)) ∧
  (∀ (s : State) (v : Word) (e : CmdErr), decode v = .error e →
    execute v s = .next (s.raiseCmdError e v).retire) ∧
  (∀ (s : State) (v : Word) (idx : Nat) (sym : BitVec 3), decode v = .ok (.vtLoad idx sym) →
    146 < idx → execute v s = .next (s.raiseCmdError .range v).retire)

/-- R330, R333: a command raises at most one error, the first of opcode, reserved bits, range; no other
command but SYS_RESET changes ERR. -/
def Obligations.FirstErrorWins : Prop :=
  ∀ (w : Word) (s : State), ∃ t, execute w s = .next t ∧
    (illegalByte (w.toNat % 256) = true → memRead t 0x008 = memRead s 0x008 ||| 1) ∧
    (∀ p ∈ reservedMasks, w.toNat % 256 = p.1 →
      (w &&& p.2 ≠ 0 → memRead t 0x008 = memRead s 0x008 ||| 2) ∧
      (w &&& p.2 = 0 → p.1 = 0x30 → 146 < w.toNat / 2 ^ 8 % 2 ^ 8 →
        memRead t 0x008 = memRead s 0x008 ||| 4) ∧
      (w &&& p.2 = 0 → p.1 = 0x30 → w.toNat / 2 ^ 8 % 2 ^ 8 ≤ 146 →
        memRead t 0x008 = memRead s 0x008) ∧
      (w &&& p.2 = 0 → p.1 ≠ 0x30 → p.1 ≠ 0x01 → memRead t 0x008 = memRead s 0x008))

/-- R334: no command but SYS_RESET clears an ERR bit. -/
def Obligations.OnlySysResetClearsErrBits : Prop :=
  ∀ (i : Instr) (s t : State) (n : Nat), exec i s = .next t → i ≠ .sysReset →
    s.err.err.getLsbD n = true → t.err.err.getLsbD n = true

/-- R60, R334: what a command does to everything but ERR and ERR_CMD does not depend on them. -/
def Obligations.CommandsRunWhateverErrHolds : Prop :=
  ∀ (i : Instr) (s t : State) (u : ErrUnit), exec i s = .next t →
    ∃ v, exec i (s.setErrUnit u) = .next (t.setErrUnit v)

/-! ### Reset and control -/

/-- R360: every register's reset value, and that SYS_RESET produces the same state but for the streams, which
keep what they hold. The last five clauses are about the model's own fields (log 1, 3, 4, 5, 7). -/
def Obligations.ResetValuesAndSysReset : Prop :=
  (∀ a, memRead State.reset a =
    if a = 0x000 then 0x46534B38
    else if a = 0x010 then 22938
    else if a = 0x080 then 0xFFFFFFFF
    else 0) ∧
  (∀ n : Fin 64, State.reset.dm.win[n] = 0) ∧
  State.reset.txOut = [] ∧ State.reset.symOut = [] ∧
  ∀ s : State, ∃ t, exec .sysReset s = .next t ∧
    (∀ a, memRead t a = memRead State.reset a) ∧ t.dm.win = State.reset.dm.win ∧
    t.txOut = s.txOut ∧ t.symOut = s.symOut ∧ t.params = s.params ∧
    t.pending = s.pending.tail ∧ t.replies = s.replies ∧ t.ready = s.ready ∧
    t.readyPlan = s.readyPlan

/-- R310: NOP leaves every register as it was. -/
def Obligations.NopChangesNothing : Prop :=
  ∀ s : State, ∃ t, exec .nop s = .next t ∧ Frame (fun _ => False) s t ∧ Quiet s t

/-! ### Tone generator -/

/-- R143: TG_RESET clears the eight accumulators and nothing else. -/
def Obligations.TgResetClearsThePhases : Prop :=
  ∀ s : State, ∃ t, exec .tgReset s = .next t ∧
    (∀ i : Fin 8, memRead t (0x020 + 4 * i.val) = 0) ∧ Frame isTgPhase s t ∧ Quiet s t

/-- R142, R144: TG_TONE emits N samples, sample j being that of the phase j increments on; the tone's
accumulator advances by N increments and nothing else changes. N = 0 needs no consumer. -/
def Obligations.TgToneEmitsSamples : Prop :=
  ∀ (sym : BitVec 3) (n : Nat) (s : State), n = 0 ∨ s.ready.tx = true →
    ∃ t, exec (.tgTone sym n) s = .next t ∧
      t.txOut = s.txOut ++ (List.range n).map (fun j =>
        toneSample s.tg.amp (memRead s (0x020 + 4 * sym.toNat)
          + BitVec.ofNat 32 (j * ((6 + sym.toNat) * 2 ^ 26)))) ∧
      memRead t (0x020 + 4 * sym.toNat) =
        memRead s (0x020 + 4 * sym.toNat) + BitVec.ofNat 32 (n * ((6 + sym.toNat) * 2 ^ 26)) ∧
      Frame (fun a => a = 0x020 + 4 * sym.toNat) s t ∧
      t.dm.win = s.dm.win ∧ t.symOut = s.symOut

/-- R145: the phase after k samples, and that any number of whole symbols brings it back. -/
def Obligations.PhaseAfterARun : Prop :=
  ∀ (sym : BitVec 3) (u : ToneUnit) (k : Nat),
    ((ToneUnit.samples sym k u).2.phase[toneIx sym]).toNat =
      ((u.phase[toneIx sym]).toNat + k * (6 + sym.toNat) * 2 ^ 26) % 2 ^ 32 ∧
    (ToneUnit.samples sym (64 * k) u).2.phase[toneIx sym] = u.phase[toneIx sym]

/-- R146: the closed form of the j-th sample from phase 0, over the ROM as listed; a symbol holds 6 + s
whole cycles. -/
def Obligations.ToneClosedForm : Prop :=
  ∀ (sym : BitVec 3) (u : ToneUnit) (n j : Nat), u.phase[toneIx sym] = 0 → j < n →
    ((ToneUnit.samples sym n u).1.map BitVec.toInt)[j]? =
      some (min (max
        ((sineTable.getD (4 * (6 + sym.toNat) * j % 256) 0 * u.amp.toNat + 2 ^ 14) / 2 ^ 15)
        (-32768)) 32767) ∧
    4 * (6 + sym.toNat) * 64 = (6 + sym.toNat) * 256

/-- R142: at amplitude 1.0 a sample lies between the two ROM entries around its phase, so interpolation never
overshoots, and at amplitude 0 it is 0. -/
def Obligations.InterpolationStaysBetweenEntries : Prop :=
  ∀ ph : Word,
    min (sineRom (phaseIndex ph)) (sineRom (phaseIndex ph + 1)) ≤ (toneSample 0x8000 ph).toInt ∧
    (toneSample 0x8000 ph).toInt ≤ max (sineRom (phaseIndex ph)) (sineRom (phaseIndex ph + 1)) ∧
    (toneSample 0 ph).toInt = 0

/-- R145, R147: TG_SYMBOL does exactly what TG_TONE with 64 samples does: 64 samples are appended, and no
register of the window changes, the tone's own accumulator included. -/
def Obligations.TgSymbolIsTgTone64 : Prop :=
  ∀ (sym : BitVec 3) (s : State), s.ready.tx = true →
    ∃ t xs, exec (.tgSymbol sym) s = .next t ∧ exec (.tgTone sym 64) s = .next t ∧
      t.txOut = s.txOut ++ xs ∧ xs.length = 64 ∧ Frame (fun _ => False) s t ∧
      t.dm.win = s.dm.win ∧ t.symOut = s.symOut

/-- R80, R366: a command that emits is held while its consumer refuses: no state change, and the access stays
the host's next one. The ready inputs are the model's own form (log 4). -/
def Obligations.RefusingConsumerHoldsTheCommand : Prop :=
  ∀ s : State,
    (s.ready.tx = false → ∀ (sym : BitVec 3) (n : Nat), n ≠ 0 →
      exec (.tgTone sym n) s = .next s) ∧
    (s.ready.tx = false → ∀ sym : BitVec 3, exec (.tgSymbol sym) s = .next s) ∧
    (s.ready.sym = false → s.dm.count.toNat % 64 = 63 → ∀ x : Sample,
      exec (.dmPush x) s = .next s)

/-! ### Demodulator -/

/-- R171: DM_RESET clears the demodulator, WIN included, and nothing else. -/
def Obligations.DmResetClearsTheDemodulator : Prop :=
  ∀ s : State, ∃ t, exec .dmReset s = .next t ∧
    (∀ a, isDmReg a ∨ isMag a → memRead t a = 0) ∧ (∀ n : Fin 64, t.dm.win[n] = 0) ∧
    Frame (fun a => isDmReg a ∨ isMag a) s t ∧ t.txOut = s.txOut ∧ t.symOut = s.symOut

/-- R172: a push inside a block stores the sample at DM_COUNT[5:0], counts it and clears BLOCK; nothing else
changes, and nothing is emitted. -/
def Obligations.PushInsideABlock : Prop :=
  ∀ (x : Sample) (s : State), s.dm.count.toNat % 64 ≠ 63 →
    ∃ t, exec (.dmPush x) s = .next t ∧
      memRead t 0x054 = memRead s 0x054 + 1 ∧
      memRead t 0x040 = memRead s 0x040 &&& ~~~0x00010000 ∧
      (∀ n : Fin 64,
        t.dm.win[n] = if n.val = s.dm.count.toNat % 64 then x else s.dm.win[n]) ∧
      Frame (fun a => a = 0x054 ∨ a = 0x040) s t ∧ t.txOut = s.txOut ∧ t.symOut = s.symOut

/-- R172, R173, R177: a push that completes a block smooths every magnitude without wrapping, detects on the
new magnitudes, writes the DM registers, and emits one record that holds what they hold. -/
def Obligations.PushCompletesABlock : Prop :=
  ∀ (x : Sample) (s : State), s.dm.count.toNat % 64 = 63 → s.ready.sym = true →
    ∃ t r, exec (.dmPush x) s = .next t ∧
      memRead t 0x054 = memRead s 0x054 + 1 ∧
      (∀ n : Fin 64, t.dm.win[n] = if n.val = 63 then x else s.dm.win[n]) ∧
      (∀ k : Fin 64, (memRead t (0x100 + 4 * k.val)).toNat =
        (4 * (memRead s (0x100 + 4 * k.val)).toNat + rawMag t.dm.win k.val + 2) / 5) ∧
      r.sym = (detect s.params t.dm.mag).sym ∧ r.valid = (detect s.params t.dm.mag).valid ∧
      r.peak = (detect s.params t.dm.mag).peak ∧ r.noise = (detect s.params t.dm.mag).noise ∧
      r.snr = (detect s.params t.dm.mag).snr ∧ r.sidx = memRead s 0x054 + 1 - 64 ∧
      memRead t 0x040 =
        r.sym.setWidth 32 ||| (if r.valid then 0x00000100 else 0) ||| 0x00010000 ∧
      memRead t 0x044 = r.peak ∧ memRead t 0x048 = r.noise ∧ memRead t 0x04C = r.snr ∧
      memRead t 0x050 = r.sidx ∧ t.symOut = s.symOut ++ [r] ∧ t.txOut = s.txOut ∧
      Frame (fun a => isDmReg a ∨ isMag a) s t

/-- R170, R174, R176: the raw magnitude is the integer square root of the squared DFT sums, the twiddles
being every fourth entry of the ROM as listed, divided by 2^7. -/
def Obligations.RawMagnitudeIsTheDft : Prop :=
  ∀ (w : Vector Sample 64) (k : Fin 64),
    rawMag w k.val = Nat.sqrt (Int.toNat (
      (∑ n : Fin 64, w[n].toInt * sineTable.getD ((4 * (k.val * n.val % 64) + 64) % 256) 0) ^ 2 +
      (-∑ n : Fin 64, w[n].toInt * sineTable.getD (4 * (k.val * n.val % 64) % 256) 0) ^ 2)) / 2 ^ 7

/-- R175: no sum, square or magnitude of the estimator leaves its width. -/
def Obligations.EstimatorNeverOverflows : Prop :=
  ∀ (w : Vector Sample 64) (k : Fin 64),
    (∀ n : Fin 64, |sampleValue w[n]| ≤ 2 ^ 15) ∧ (∀ m, |cos64 m| ≤ 32767 ∧ |sin64 m| ≤ 32767) ∧
    |dftRe w k.val| < 2 ^ 36 ∧ |dftIm w k.val| < 2 ^ 36 ∧
    dftRe w k.val ^ 2 + dftIm w k.val ^ 2 < 2 ^ 73 ∧ rawMag w k.val < 2 ^ 30 ∧
    ∀ m : Word, 4 * m.toNat + rawMag w k.val + 2 < 2 ^ 35 ∧ smooth m.toNat (rawMag w k.val) < 2 ^ 32

/-- R178: with a constant raw magnitude r the smoothing moves toward r monotonically, stands still exactly
within 2 of r, gets there, and from 0 follows r·(1 - 0.8^j) to within 2. -/
def Obligations.SmoothingConverges : Prop :=
  ∀ r : Nat,
    (∀ m : Nat, smooth m r = m ↔ |(m : Int) - r| ≤ 2) ∧
    (∀ m : Nat, m + 2 < r → m < smooth m r ∧ smooth m r ≤ r) ∧
    (∀ m : Nat, r + 2 < m → smooth m r < m ∧ r ≤ smooth m r) ∧
    (∀ m : Nat, ∃ n, ∀ j, n ≤ j → |(((fun x => smooth x r)^[j] m : Nat) : Int) - r| ≤ 2) ∧
    (∀ j : Nat,
      |(((fun x => smooth x r)^[j] 0 : Nat) : ℚ) - (r : ℚ) * (1 - (4 / 5 : ℚ) ^ j)| ≤ 2)

/-- R179: mirror bins have equal raw magnitudes, and bin 0 is the scaled sum of the samples. -/
def Obligations.MirrorBinsAndBinZero : Prop :=
  ∀ w : Vector Sample 64,
    (∀ k : Nat, 1 ≤ k → k ≤ 63 → rawMag w k = rawMag w (64 - k)) ∧
    rawMag w 0 = 32767 * (∑ n : Fin 64, w[n].toInt).natAbs / 128

/-- R202, R203, R205, R207: who wins under each tie policy. An all-zero band fails under both, and a bin above
all other band bins wins under both. The SNR of a success is SNR_FN of its peak and noise floor; a failure has
SYM, PEAK and SNR 0. -/
def Obligations.WinnerUnderEachTiePolicy : Prop :=
  ∀ (p : Params) (mag : Vector Word 64),
    ((∀ k : Fin 64, BandBin k → mag[k] = 0) → (detect p mag).valid = false) ∧
    (∀ k : Fin 64, BandBin k →
      (∀ j : Fin 64, BandBin j → j ≠ k → mag[j].toNat < mag[k].toNat) →
      (detect p mag).valid = true ∧ (detect p mag).sym.toNat = k.val - 6 ∧
        (detect p mag).peak = mag[k]) ∧
    (p.tiePolicy = .strict → (detect p mag).valid = true →
      ∃ k : Fin 64, BandBin k ∧ ∀ j : Fin 64, BandBin j → j ≠ k → mag[j].toNat < mag[k].toNat) ∧
    (p.tiePolicy = .lowestNonzero →
      ((detect p mag).valid = true ↔ ∃ k : Fin 64, BandBin k ∧ mag[k] ≠ 0) ∧
      ∀ k : Fin 64, BandBin k → mag[k] ≠ 0 →
        (∀ j : Fin 64, BandBin j → mag[j].toNat ≤ mag[k].toNat) →
        (∀ j : Fin 64, BandBin j → j < k → mag[j].toNat < mag[k].toNat) →
        (detect p mag).sym.toNat = k.val - 6 ∧ (detect p mag).peak = mag[k]) ∧
    ((detect p mag).valid = true →
      (detect p mag).snr = snr p.snrFn (detect p mag).peak (detect p mag).noise) ∧
    ((detect p mag).valid = false →
      (detect p mag).sym = 0 ∧ (detect p mag).peak = 0 ∧ (detect p mag).snr = 0)

/-- R204: the noise floor is the larger of 1 and the least magnitude outside the band, whether or not
detection succeeds. -/
def Obligations.NoiseIsTheClippedMinimum : Prop :=
  ∀ (p : Params) (mag : Vector Word 64), ∃ least : Fin 64,
    ¬ BandBin least ∧ (∀ k : Fin 64, ¬ BandBin k → mag[least].toNat ≤ mag[k].toNat) ∧
    (detect p mag).noise.toNat = max 1 mag[least].toNat

/-- R205: the reference SNR function is the spec's formula, exactly, and fits its register. -/
def Obligations.SnrReferenceIsTheFormula : Prop :=
  ∀ p n : Nat, 1 ≤ p → p < 2 ^ 32 → 1 ≤ n → n < 2 ^ 32 →
    snrRef p n = ⌊(256 : ℝ) * 20 * Real.logb 10 ((p : ℝ) / n) + 1 / 2⌋ ∧
    (p < 2 ^ 30 → n < 2 ^ 30 → |snrRef p n| < 46300)

/-- R205 and ID7: which SNR_FN is taken changes DM_SNR and the SNR of records, and nothing else. -/
def Obligations.SnrFnChangesOnlySnr : Prop :=
  ∀ (i : Instr) (s t t' : State) (f : SnrFn), exec i s = .next t →
    exec i { s with params := { s.params with snrFn := f } } = .next t' →
    t'.dm = { t.dm with snr := t'.dm.snr } ∧
    t'.symOut.map (fun r => { r with snr := 0 }) = t.symOut.map (fun r => { r with snr := 0 }) ∧
    t'.err = t.err ∧ t'.tg = t.tg ∧ t'.vt = t.vt ∧ t'.gol = t.gol ∧ t'.crc = t.crc ∧
    t'.asc = t.asc ∧ t'.txOut = t.txOut ∧ t'.pending = t.pending ∧ t'.replies = t.replies ∧
    t'.ready = t.ready ∧ t'.readyPlan = t.readyPlan

/-- R208: the 64 samples of one symbol from reset, pushed into a reset demodulator, give a record with that
symbol, noise floor 1, SNR 38784 and sample index 0, under either tie policy. -/
def Obligations.LoopbackDetectsEverySymbol : Prop :=
  ∀ (policy : TiePolicy) (sym : BitVec 3),
    let xs := (ToneUnit.samples sym 64 .reset).1
    let r := ((xs.foldl DemodUnit.store .reset).completeBlock
      { defaultParams with tiePolicy := policy }).2
    xs.length = 64 ∧ r.sym = sym ∧ r.valid = true ∧ r.noise = 1 ∧ r.snr = 38784 ∧ r.sidx = 0

/-! ### Voter -/

/-- R221: VT_LOAD of an index 0..146 stores the symbol and nothing else; of an index 147..255 it raises RANGE
and stores nothing. -/
def Obligations.VtLoadStoresOrRaisesRange : Prop :=
  ∀ (idx : Nat) (sym : BitVec 3) (s : State),
    (idx ≤ 146 → ∃ t, exec (.vtLoad idx sym) s = .next t ∧
      memRead t (0x200 + 4 * idx) = sym.setWidth 32 ∧
      Frame (fun a => a = 0x200 + 4 * idx) s t ∧ Quiet s t) ∧
    (147 ≤ idx → idx ≤ 255 → ∃ t, exec (.vtLoad idx sym) s = .next t ∧
      memRead t 0x008 = memRead s 0x008 ||| 4 ∧
      memRead t 0x00C = (if memRead s 0x008 = 0
        then BitVec.ofNat 32 (0x30 + idx * 2 ^ 8 + sym.toNat * 2 ^ 16) else memRead s 0x00C) ∧
      Frame (fun a => a = 0x008 ∨ a = 0x00C) s t ∧ Quiet s t)

/-- R222: VT_RUN writes the bitwise majority of the three copies and the number of positions where they
differ, and nothing else. -/
def Obligations.VtRunTakesTheMajority : Prop :=
  ∀ s : State, ∃ t, exec .vtRun s = .next t ∧
    (∀ b : Fin 24, (memRead t 0x060).getLsbD b.val = decide (2 ≤
      ((memRead s (0x200 + 4 * b.val)).getLsbD (b.val % 3)).toNat +
      ((memRead s (0x200 + 4 * (b.val + 49))).getLsbD (b.val % 3)).toNat +
      ((memRead s (0x200 + 4 * (b.val + 98))).getLsbD (b.val % 3)).toNat)) ∧
    (memRead t 0x060).toNat < 2 ^ 24 ∧
    (memRead t 0x064).toNat = (Finset.univ.filter fun b : Fin 24 => ¬
      ((memRead s (0x200 + 4 * b.val)).getLsbD (b.val % 3) =
        (memRead s (0x200 + 4 * (b.val + 49))).getLsbD (b.val % 3) ∧
       (memRead s (0x200 + 4 * (b.val + 49))).getLsbD (b.val % 3) =
        (memRead s (0x200 + 4 * (b.val + 98))).getLsbD (b.val % 3))).card ∧
    Frame (fun a => a = 0x060 ∨ a = 0x064) s t ∧ Quiet s t

/-- R223: the result depends only on bit (b mod 3) of the symbols b, b + 49 and b + 98, b = 0..23. -/
def Obligations.VoterReadsOnlyItsBits : Prop :=
  ∀ (s ta tb : State) (x y : Vector (BitVec 3) 147),
    (∀ (b : Fin 24) (c : Fin 3),
      (x[b.val + 49 * c.val]'(by omega)).getLsbD (b.val % 3) =
        (y[b.val + 49 * c.val]'(by omega)).getLsbD (b.val % 3)) →
    exec .vtRun (s.setVt { s.vt with sym := x }) = .next ta →
    exec .vtRun (s.setVt { s.vt with sym := y }) = .next tb →
    memRead ta 0x060 = memRead tb 0x060 ∧ memRead ta 0x064 = memRead tb 0x064

/-- R225: filling the array from a word votes back to the word with no disagreement, whatever stands in the
entries the voter does not read. -/
def Obligations.VoterInvertsTheFill : Prop :=
  ∀ (w : BitVec 24) (s : State),
    (∀ (b : Fin 24) (c : Fin 3), s.vt.sym[b.val + 49 * c.val]'(by omega) =
      (BitVec.ofBool (w.getLsbD b.val)).setWidth 3 <<< (b.val % 3)) →
    ∃ t, exec .vtRun s = .next t ∧ memRead t 0x060 = w.setWidth 32 ∧ memRead t 0x064 = 0

/-! ### Golay -/

/-- R240, R244: GOL_ENC writes info and parity in their halves and clears GOL_STAT, and nothing else. -/
def Obligations.GolEncWritesTheCodeword : Prop :=
  ∀ (info : BitVec 12) (s : State), ∃ t, exec (.golEnc info) s = .next t ∧
    memRead t 0x070 =
      info.setWidth 32 ||| (golayParity s.params.golayRows info).setWidth 32 <<< 12 ∧
    memRead t 0x074 = 0 ∧ Frame (fun a => a = 0x070 ∨ a = 0x074) s t ∧ Quiet s t

/-- R241, R243: the parity table is linear and spanned by its rows, a codeword has syndrome 0, and the
syndrome of a received word is that of its error pattern, for every choice of rows. -/
def Obligations.SyndromeDependsOnTheErrorAlone : Prop :=
  ∀ rows : Vector (BitVec 12) 12,
    (∀ a b, golayParity rows (a ^^^ b) = golayParity rows a ^^^ golayParity rows b) ∧
    (∀ i : Fin 12, golayParity rows (1#12 <<< i.val) = rows[i]) ∧
    (∀ info, syndrome rows (golayCodeword rows info) = 0) ∧
    (∀ info e, syndrome rows (golayCodeword rows info ^^^ e) = syndrome rows e)

/-- R242, R245: the three outcomes of GOL_DEC, for every choice of rows: no error; a pattern of weight 1 to 3
has the word's syndrome, and the one SYNDROME_ROM holds is removed; or none has it, SYNDROME_ROM holds none,
and the word is reported uncorrectable. -/
def Obligations.GolDecHasThreeOutcomes : Prop :=
  ∀ (rx : BitVec 24) (s : State), ∃ t, exec (.golDec rx) s = .next t ∧
    Frame (fun a => a = 0x070 ∨ a = 0x074) s t ∧ Quiet s t ∧
    (syndrome s.params.golayRows rx = 0 →
      memRead t 0x070 = (infoOf rx).setWidth 32 ∧ memRead t 0x074 = 0x00010000) ∧
    (syndrome s.params.golayRows rx ≠ 0 →
      (∃ e, 1 ≤ popcount e ∧ popcount e ≤ 3 ∧
        syndrome s.params.golayRows e = syndrome s.params.golayRows rx) →
      ∃ e, syndromeRom s.params.golayRows (syndrome s.params.golayRows rx) = some e ∧
        1 ≤ popcount e ∧ popcount e ≤ 3 ∧
        syndrome s.params.golayRows e = syndrome s.params.golayRows rx ∧
        memRead t 0x070 = (infoOf (rx ^^^ e)).setWidth 32 ∧
        memRead t 0x074 = BitVec.ofNat 32 (popcount e) ||| 0x00010000) ∧
    (syndrome s.params.golayRows rx ≠ 0 →
      (∀ e : BitVec 24, 1 ≤ popcount e → popcount e ≤ 3 →
        syndrome s.params.golayRows e ≠ syndrome s.params.golayRows rx) →
      syndromeRom s.params.golayRows (syndrome s.params.golayRows rx) = none ∧
      memRead t 0x070 = (infoOf rx).setWidth 32 ∧ memRead t 0x074 = 0x00010100)

/-- R242: looking a syndrome up by searching the enumeration gives what the table built entry by entry, first
discovered wins, holds. -/
def Obligations.SyndromeSearchIsTheBuiltTable : Prop :=
  ∀ (rows : Vector (BitVec 12) 12) (syn : BitVec 12),
    (buildSyndromeRom rows).lookup syn = syndromeRom rows syn

/-- R246: under the default table the code is the extended Golay code: its weight distribution, minimum
distance 8, and 2324 error patterns with distinct nonzero syndromes, all of them entries of the table. -/
def Obligations.DefaultCodeIsExtendedGolay : Prop :=
  (∀ p ∈ [(0, 1), (8, 759), (12, 2576), (16, 759), (24, 1)],
    (Finset.univ.filter fun info : Fin (2 ^ 12) =>
      popcount (golayCodeword defaultGolayRows (BitVec.ofFin info)) = p.1).card = p.2) ∧
  (∀ a b : BitVec 12, a ≠ b →
    8 ≤ popcount (golayCodeword defaultGolayRows a ^^^ golayCodeword defaultGolayRows b)) ∧
  errorPatterns.length = 2324 ∧
  (errorPatterns.map (syndrome defaultGolayRows)).Nodup ∧
  (∀ e ∈ errorPatterns, syndrome defaultGolayRows e ≠ 0) ∧
  (buildSyndromeRom defaultGolayRows).length = 2324

/-- R247: under the default table every word within distance 3 of a codeword decodes to its info, with the
number of errors and no UNCORR; four errors are always reported uncorrectable, with the received info; five
errors never are: the word goes to the codeword at distance 3. -/
def Obligations.CorrectionUnderTheDefaultTable : Prop :=
  ∀ (info : BitVec 12) (e : BitVec 24) (s : State), s.params.golayRows = defaultGolayRows →
    ∃ t, exec (.golDec (golayCodeword defaultGolayRows info ^^^ e)) s = .next t ∧
      (popcount e ≤ 3 →
        memRead t 0x070 = info.setWidth 32 ∧
        memRead t 0x074 = BitVec.ofNat 32 (popcount e) ||| 0x00010000) ∧
      (popcount e = 4 →
        memRead t 0x070 = (info ^^^ infoOf e).setWidth 32 ∧ memRead t 0x074 = 0x00010100) ∧
      (popcount e = 5 →
        ∃ other : BitVec 12,
          popcount (golayCodeword defaultGolayRows info ^^^ e ^^^
            golayCodeword defaultGolayRows other) = 3 ∧
          memRead t 0x070 = other.setWidth 32 ∧ memRead t 0x074 = 0x00010003)

/-! ### ASCII codec -/

/-- R270-R273: the restricted set, and the results of the two codec commands. -/
def Obligations.CodecCommandsWriteTheseResults : Prop :=
  (∀ c : Byte, isRA c = true ↔ c.toNat ∈
    0x20 :: 0x2D :: 0x2E :: 0x2F :: 0x3F :: 0x40 :: (List.range' 0x30 10 ++ List.range' 0x41 26)) ∧
  (∀ (c0 c1 c2 : Byte) (s : State), ∃ t, exec (.ascEnc c0 c1 c2) s = .next t ∧
    Frame (fun a => a = 0x090 ∨ a = 0x094) s t ∧ Quiet s t ∧
    (isRA c0 = true ∧ isRA c1 = true ∧ isRA c2 = true →
      (memRead t 0x090).toNat = c0.toNat + c1.toNat * 2 ^ 7 + c2.toNat * 2 ^ 14 ∧
      memRead t 0x094 = 0) ∧
    (¬ (isRA c0 = true ∧ isRA c1 = true ∧ isRA c2 = true) →
      memRead t 0x090 = 0xFFFFFFFF ∧ memRead t 0x094 = 1)) ∧
  (∀ (payload : BitVec 21) (s : State), ∃ t, exec (.ascDec payload) s = .next t ∧
    Frame (fun a => a = 0x090 ∨ a = 0x094) s t ∧ Quiet s t ∧
    (isRA (payloadC0 payload) = true ∧ isRA (payloadC1 payload) = true ∧
        isRA (payloadC2 payload) = true →
      (memRead t 0x090).toNat = payload.toNat % 2 ^ 7 + payload.toNat / 2 ^ 7 % 2 ^ 7 * 2 ^ 8 +
        payload.toNat / 2 ^ 14 * 2 ^ 16 ∧
      memRead t 0x094 = 0x00010000) ∧
    (¬ (isRA (payloadC0 payload) = true ∧ isRA (payloadC1 payload) = true ∧
        isRA (payloadC2 payload) = true) →
      memRead t 0x090 = 0x003F3F3F ∧ memRead t 0x094 = 0x00010001))

/-- R274: the codec's round trips, and the number of valid payloads. -/
def Obligations.CodecRoundTrips : Prop :=
  (∀ c0 c1 c2 : Byte, isRA c0 = true → isRA c1 = true → isRA c2 = true →
    (asciiDecode ((asciiEncode c0 c1 c2).res.setWidth 21)).stat.invalid = false ∧
    (asciiDecode ((asciiEncode c0 c1 c2).res.setWidth 21)).res =
      c0.setWidth 32 ||| c1.setWidth 32 <<< 8 ||| c2.setWidth 32 <<< 16) ∧
  (∀ p : BitVec 21, (asciiDecode p).stat.invalid = false →
    (asciiEncode (byteLane (asciiDecode p).res 0) (byteLane (asciiDecode p).res 1)
      (byteLane (asciiDecode p).res 2)).res = p.setWidth 32) ∧
  (Finset.univ.filter fun p : Fin (2 ^ 21) =>
    (asciiDecode (BitVec.ofFin p)).stat.invalid = false).card = 74088

/-- R115: splitting a 24-bit word into preamble and payload and joining them are inverse, with the preamble in
the low three bits. -/
def Obligations.AleWordSplitsAndJoins : Prop :=
  (∀ w : BitVec 24, aleWord (wordPreamble w) (wordPayload w) = w ∧
    w.toNat = (wordPreamble w).toNat + (wordPayload w).toNat * 2 ^ 3) ∧
  (∀ (p : BitVec 3) (q : BitVec 21),
    wordPreamble (aleWord p q) = p ∧ wordPayload (aleWord p q) = q)

/-! ### CRC -/

/-- R292-R294: the results of the three CRC commands, and that nothing else changes. -/
def Obligations.CrcCommandsWriteTheseResults : Prop :=
  ∀ s : State,
    (∃ t, exec .crcInit s = .next t ∧ memRead t 0x080 = 0xFFFFFFFF ∧ memRead t 0x084 = 0 ∧
      memRead t 0x08C = 0 ∧ Frame (fun a => a = 0x080 ∨ a = 0x084 ∨ a = 0x08C) s t ∧ Quiet s t) ∧
    (∀ byte : Byte, ∃ t, exec (.crcByte byte) s = .next t ∧
      memRead t 0x080 = crcStep (memRead s 0x080) byte ∧
      memRead t 0x084 = crcStep (memRead s 0x080) byte ^^^ 0xFFFFFFFF ∧
      memRead t 0x08C = 0 ∧ Frame (fun a => a = 0x080 ∨ a = 0x084 ∨ a = 0x08C) s t ∧ Quiet s t) ∧
    (∃ t, exec .crcCheck s = .next t ∧
      memRead t 0x08C =
        (if memRead s 0x080 ^^^ 0xFFFFFFFF = memRead s 0x088 then 1 else 0) ∧
      Frame (fun a => a = 0x08C) s t ∧ Quiet s t)

/-- R296: a string followed by its own CRC in wire order leaves the residue, whatever the string is, and no
other four bytes after it do, so comparing with the residue answers what comparing the trailing four bytes
with the CRC of the rest answers. -/
def Obligations.AppendedCrcLeavesTheResidue : Prop :=
  ∀ m : List Byte,
    crcFeed 0xFFFFFFFF (m ++ wireBytes (crc32 m)) = 0xC704DD7B ∧
    crc32 (m ++ wireBytes (crc32 m)) = 0x38FB2284 ∧
    ∀ t0 t1 t2 t3 : Byte,
      crcFeed 0xFFFFFFFF (m ++ [t0, t1, t2, t3]) = 0xC704DD7B ↔
        crc32 m = ofWireBytes t0 t1 t2 t3

/-- R297: a buffer that differs from a string with its appended CRC only inside a stretch of at most 32 bits,
wherever in the string or in the CRC the stretch lies, is a mismatch; a single flipped bit is the shortest
stretch. -/
def Obligations.ShortErrorsChangeTheCrc : Prop :=
  ∀ (m m' : List Byte) (t0 t1 t2 t3 : Byte) (pre x y post : List Bool),
    wireBits (m ++ wireBytes (crc32 m)) = pre ++ x ++ post →
    wireBits (m' ++ [t0, t1, t2, t3]) = pre ++ y ++ post →
    x.length = y.length → x.length ≤ 32 → x ≠ y →
    crc32 m' ≠ ofWireBytes t0 t1 t2 t3

/-- R118, R294, R295: the accesses of CRC_VALIDATE, run in order, end with a read that returns 1 iff the
trailing four bytes are the CRC of the bytes before them, whatever state the engine was in. The queue and the
list of replies are the model's own form (log 1, 3). -/
def Obligations.CrcValidateAnswersTheComparison : Prop :=
  ∀ (s : State) (body : List Byte) (t0 t1 t2 t3 : Byte) (rest : List BusAccess),
    s.pending = crcValidate body t0 t1 t2 t3 ++ rest →
    ∃ t, Sys2Proof.core.run (body.length + 4) s = .next t ∧ t.pending = rest ∧
      t.replies = s.replies ++ [if crc32 body = ofWireBytes t0 t1 t2 t3 then 1 else 0]

/-! ### The whole machine -/

/-- R30, R37, R54, R60, R70: a command other than SYS_RESET changes the registers and the stream of its own
unit only; none writes TG_AMP or CRC_EXPECT; ERR and ERR_CMD change by a VT_LOAD out of range only. -/
def Obligations.CommandsStayInTheirUnit : Prop :=
  ∀ (i : Instr) (s t : State), exec i s = .next t → i ≠ .sysReset →
    t.tg.amp = s.tg.amp ∧ t.crc.expect = s.crc.expect ∧ t.params = s.params ∧
    (t.tg ≠ s.tg → i = .tgReset ∨ (∃ sym n, i = .tgTone sym n) ∨ ∃ sym, i = .tgSymbol sym) ∧
    (t.dm ≠ s.dm → i = .dmReset ∨ ∃ x, i = .dmPush x) ∧
    (t.vt ≠ s.vt → (∃ idx sym, i = .vtLoad idx sym) ∨ i = .vtRun) ∧
    (t.gol ≠ s.gol → (∃ info, i = .golEnc info) ∨ ∃ rx, i = .golDec rx) ∧
    (t.asc ≠ s.asc → (∃ c0 c1 c2, i = .ascEnc c0 c1 c2) ∨ ∃ p, i = .ascDec p) ∧
    (t.crc ≠ s.crc → i = .crcInit ∨ (∃ b, i = .crcByte b) ∨ i = .crcCheck) ∧
    (t.err ≠ s.err → ∃ idx sym, i = .vtLoad idx sym ∧ 146 < idx) ∧
    (t.txOut ≠ s.txOut → (∃ sym n, i = .tgTone sym n) ∨ ∃ sym, i = .tgSymbol sym) ∧
    (t.symOut ≠ s.symOut → ∃ x, i = .dmPush x)

/-- R59, R70, R87: every step, whatever it does, only appends to the streams; SYM_OUT gets at most one record
in a step, and only when a count of 63 modulo 64 is pushed on. -/
def Obligations.StreamsOnlyGrow : Prop :=
  ∀ s t : State, step s = .next t →
    (∃ xs, t.txOut = s.txOut ++ xs) ∧
    (t.symOut = s.symOut ∨
      s.dm.count.toNat % 64 = 63 ∧ t.dm.count = s.dm.count + 1 ∧
        ∃ r, t.symOut = s.symOut ++ [r] ∧ t.dmRecord = r)

/-- R61: every step keeps the low 24 bits of every phase accumulator 0. -/
def Obligations.StepKeepsPhasesOnGrid : Prop :=
  ∀ s t : State, PhasesOnGrid s → step s = .next t → PhasesOnGrid t

/-- R175, R177: every step keeps the magnitudes below 2^30. -/
def Obligations.StepKeepsMagnitudesBounded : Prop :=
  ∀ s t : State, MagnitudesBounded s → step s = .next t → MagnitudesBounded t

/-- R48, R50, R51, R56, R57: every step keeps the result registers at values the spec gives them. -/
def Obligations.StepKeepsResultsLegal : Prop :=
  ∀ s t : State, ResultsLegal s → step s = .next t → ResultsLegal t

/-- R39-R43, R173, R204, R207: every step keeps the DM registers the record of the last completed block: from
that block on, between boundaries too, they are the newest record of SYM_OUT and what the detector answers on
MAG, and before any block they hold their reset values. -/
def Obligations.StepKeepsTheRecord : Prop :=
  ∀ s t : State, RecordHeld s → step s = .next t → RecordHeld t

/-- The four invariants hold after reset. -/
def Obligations.InvariantsHoldAtReset : Prop :=
  PhasesOnGrid State.reset ∧ MagnitudesBounded State.reset ∧ ResultsLegal State.reset ∧
    RecordHeld State.reset
end

