-- ==== Sys2Proof/Laws/Arith.lean ====
section
/-! SUPPORT. The exact integer functions: what the search finds, and that `isqrt` is the integer square root. -/

namespace Sys2Proof.Machine

/-- With a downward closed test that holds at the start, the search ends at a value that passes, below the
bound, and the next larger value below the bound fails. -/
theorem searchBits_spec (test : Nat → Bool)
    (down : ∀ a b, a ≤ b → test b = true → test a = true) :
    ∀ bits acc, test acc = true →
      test (searchBits test bits acc) = true ∧ acc ≤ searchBits test bits acc ∧
      searchBits test bits acc < acc + 2 ^ bits ∧
      ∀ k, k < acc + 2 ^ bits → test k = true → k ≤ searchBits test bits acc := by
  intro bits
  induction bits with
  | zero =>
    intro acc h
    refine ⟨h, le_refl _, by simp [searchBits], ?_⟩
    intro k hk _
    simp only [searchBits]
    omega
  | succ bits ih =>
    intro acc h
    have hpow : 2 ^ (bits + 1) = 2 ^ bits + 2 ^ bits := by ring
    simp only [searchBits]
    split
    · next hc =>
      obtain ⟨h1, h2, h3, h4⟩ := ih (acc + 2 ^ bits) hc
      exact ⟨h1, by omega, by omega, fun k hk ht => h4 k (by omega) ht⟩
    · next hc =>
      obtain ⟨h1, h2, h3, h4⟩ := ih acc h
      refine ⟨h1, h2, by omega, fun k hk ht => ?_⟩
      by_cases hlt : k < acc + 2 ^ bits
      · exact h4 k hlt ht
      · exact absurd (down (acc + 2 ^ bits) k (by omega) ht) hc

/-- The square of a number with more than half as many bits exceeds n. -/
theorem lt_sq_of_log2 (n : Nat) : n < (2 ^ (n.log2 / 2 + 1)) * (2 ^ (n.log2 / 2 + 1)) := by
  have h : n < 2 ^ (n.log2 + 1) := Nat.lt_log2_self
  rw [← pow_add]
  exact lt_of_lt_of_le h (Nat.pow_le_pow_right (by norm_num) (by omega))

/-- R12: `isqrt n` is the largest r with r·r ≤ n. -/
theorem isqrt_spec (n : Nat) : isqrt n * isqrt n ≤ n ∧ n < (isqrt n + 1) * (isqrt n + 1) := by
  obtain ⟨h1, -, h3, h4⟩ := searchBits_spec (fun r => decide (r * r ≤ n))
    (fun a b hab hb => by
      simp only [decide_eq_true_eq] at *
      exact le_trans (Nat.mul_le_mul hab hab) hb)
    (n.log2 / 2 + 1) 0 (by simp)
  refine ⟨by simpa [isqrt] using h1, ?_⟩
  by_contra hcon
  have hle : (isqrt n + 1) * (isqrt n + 1) ≤ n := by omega
  have hbound : isqrt n + 1 < 2 ^ (n.log2 / 2 + 1) := by
    by_contra hge
    have := Nat.mul_le_mul (Nat.le_of_not_lt hge) (Nat.le_of_not_lt hge)
    have := lt_sq_of_log2 n
    omega
  have := h4 (isqrt n + 1) (by simpa using hbound) (by simpa using hle)
  simp only [isqrt] at this
  omega

/-- `isqrt` is the library's integer square root. -/
theorem isqrt_eq_sqrt (n : Nat) : isqrt n = n.sqrt := by
  obtain ⟨h1, h2⟩ := isqrt_spec n
  exact (Nat.eq_sqrt.mpr ⟨h1, h2⟩)

/-- `maj` is the value at least two of the three bits share. -/
theorem maj_eq (a b c : Bool) : maj a b c = (a && b || a && c || b && c) := by
  cases a <;> cases b <;> cases c <;> rfl

/-- The clamp lies between its bounds. -/
theorem clamp_bounds (v lo hi : Int) (h : lo ≤ hi) : lo ≤ clamp v lo hi ∧ clamp v lo hi ≤ hi := by
  simp only [clamp]
  omega

end Sys2Proof.Machine
end

