-- ==== Sys2Proof/Laws/Decode.lean ====
section
/-! SUPPORT. The parts of the decoder: the opcode map is one to one, no two rows of it overlap, and what
`decode` answers in each of its three cases. -/

namespace Sys2Proof

/-- Every opcode is in the list the decoder searches. -/
theorem Opcode.mem_all (op : Opcode) : op ∈ Opcode.all := by
  cases op <;> decide

/-- The opcode bytes are pairwise different, so no two rows of the opcode map overlap (R111). -/
theorem Opcode.codes_disjoint : Opcode.all.Pairwise fun a b => a.code ≠ b.code := by
  decide

/-- The byte of an opcode selects that opcode. -/
@[simp] theorem Opcode.ofByte?_code (op : Opcode) : Opcode.ofByte? op.code = some op := by
  cases op <;> decide

/-- A byte that selects an opcode is its byte. -/
theorem Opcode.code_of_ofByte? {b : Byte} {op : Opcode} (h : Opcode.ofByte? b = some op) :
    op.code = b := by
  have := List.find?_some h
  simpa using this

/-- A byte selects no opcode iff it is no opcode's byte (R112). -/
theorem Opcode.ofByte?_eq_none {b : Byte} : Opcode.ofByte? b = none ↔ ∀ op : Opcode, op.code ≠ b := by
  simp only [Opcode.ofByte?, List.find?_eq_none, beq_iff_eq]
  exact ⟨fun h op => h op op.mem_all, fun h op _ => h op⟩

/-- `decode` rejects with ILLEGAL_OP iff the opcode byte selects no opcode (R112). -/
theorem decode_eq_illegalOp {w : Word} :
    decode w = .error .illegalOp ↔ Opcode.ofByte? (field w 0 8) = none := by
  unfold decode
  split
  · next h => simp [h]
  · next h => split <;> simp [h]

/-- `decode` rejects with RSVD_NONZERO iff the opcode is defined and a reserved bit is 1 (R113). -/
theorem decode_eq_rsvdNonzero {w : Word} :
    decode w = .error .rsvdNonzero ↔
      ∃ op, Opcode.ofByte? (field w 0 8) = some op ∧ w &&& op.format.rsvdMask ≠ 0 := by
  unfold decode
  split
  · next h => simp [h]
  · next op h => split <;> simp_all

/-- `decode` never answers RANGE: that error is the command's own (R333). -/
theorem decode_ne_range (w : Word) : decode w ≠ .error .range := by
  unfold decode
  split
  · simp
  · split <;> simp

/-- `decode` answers a command iff the opcode is defined and the reserved bits are 0. -/
theorem decode_eq_ok {w : Word} {i : Instr} :
    decode w = .ok i ↔
      ∃ op, Opcode.ofByte? (field w 0 8) = some op ∧ w &&& op.format.rsvdMask = 0 ∧
        op.operands w = i := by
  unfold decode
  split
  · next h => simp [h]
  · next op h => split <;> simp_all

/-- The command an opcode's operands make has that opcode. -/
@[simp] theorem Opcode.operands_opcode (op : Opcode) (w : Word) : (op.operands w).opcode = op := by
  cases op <;> rfl

end Sys2Proof
end

