-- ==== Sys2Proof/Laws/State.lean ====
section
/-! SUPPORT. What each update of the state does to each field of it: one lemma per field per update, all by
unfolding, so that no later proof unfolds an update. -/

namespace Sys2Proof.Machine

@[simp] theorem State.setErrUnit_err (s : State) (u : ErrUnit) :
    (s.setErrUnit u).err = u := rfl

@[simp] theorem State.setErrUnit_tg (s : State) (u : ErrUnit) :
    (s.setErrUnit u).tg = s.tg := rfl

@[simp] theorem State.setErrUnit_dm (s : State) (u : ErrUnit) :
    (s.setErrUnit u).dm = s.dm := rfl

@[simp] theorem State.setErrUnit_vt (s : State) (u : ErrUnit) :
    (s.setErrUnit u).vt = s.vt := rfl

@[simp] theorem State.setErrUnit_gol (s : State) (u : ErrUnit) :
    (s.setErrUnit u).gol = s.gol := rfl

@[simp] theorem State.setErrUnit_crc (s : State) (u : ErrUnit) :
    (s.setErrUnit u).crc = s.crc := rfl

@[simp] theorem State.setErrUnit_asc (s : State) (u : ErrUnit) :
    (s.setErrUnit u).asc = s.asc := rfl

@[simp] theorem State.setErrUnit_txOut (s : State) (u : ErrUnit) :
    (s.setErrUnit u).txOut = s.txOut := rfl

@[simp] theorem State.setErrUnit_symOut (s : State) (u : ErrUnit) :
    (s.setErrUnit u).symOut = s.symOut := rfl

@[simp] theorem State.setErrUnit_params (s : State) (u : ErrUnit) :
    (s.setErrUnit u).params = s.params := rfl

@[simp] theorem State.setErrUnit_pending (s : State) (u : ErrUnit) :
    (s.setErrUnit u).pending = s.pending := rfl

@[simp] theorem State.setErrUnit_replies (s : State) (u : ErrUnit) :
    (s.setErrUnit u).replies = s.replies := rfl

@[simp] theorem State.setErrUnit_ready (s : State) (u : ErrUnit) :
    (s.setErrUnit u).ready = s.ready := rfl

@[simp] theorem State.setErrUnit_readyPlan (s : State) (u : ErrUnit) :
    (s.setErrUnit u).readyPlan = s.readyPlan := rfl

@[simp] theorem State.setTg_err (s : State) (u : ToneUnit) :
    (s.setTg u).err = s.err := rfl

@[simp] theorem State.setTg_tg (s : State) (u : ToneUnit) :
    (s.setTg u).tg = u := rfl

@[simp] theorem State.setTg_dm (s : State) (u : ToneUnit) :
    (s.setTg u).dm = s.dm := rfl

@[simp] theorem State.setTg_vt (s : State) (u : ToneUnit) :
    (s.setTg u).vt = s.vt := rfl

@[simp] theorem State.setTg_gol (s : State) (u : ToneUnit) :
    (s.setTg u).gol = s.gol := rfl

@[simp] theorem State.setTg_crc (s : State) (u : ToneUnit) :
    (s.setTg u).crc = s.crc := rfl

@[simp] theorem State.setTg_asc (s : State) (u : ToneUnit) :
    (s.setTg u).asc = s.asc := rfl

@[simp] theorem State.setTg_txOut (s : State) (u : ToneUnit) :
    (s.setTg u).txOut = s.txOut := rfl

@[simp] theorem State.setTg_symOut (s : State) (u : ToneUnit) :
    (s.setTg u).symOut = s.symOut := rfl

@[simp] theorem State.setTg_params (s : State) (u : ToneUnit) :
    (s.setTg u).params = s.params := rfl

@[simp] theorem State.setTg_pending (s : State) (u : ToneUnit) :
    (s.setTg u).pending = s.pending := rfl

@[simp] theorem State.setTg_replies (s : State) (u : ToneUnit) :
    (s.setTg u).replies = s.replies := rfl

@[simp] theorem State.setTg_ready (s : State) (u : ToneUnit) :
    (s.setTg u).ready = s.ready := rfl

@[simp] theorem State.setTg_readyPlan (s : State) (u : ToneUnit) :
    (s.setTg u).readyPlan = s.readyPlan := rfl

@[simp] theorem State.setDm_err (s : State) (u : DemodUnit) :
    (s.setDm u).err = s.err := rfl

@[simp] theorem State.setDm_tg (s : State) (u : DemodUnit) :
    (s.setDm u).tg = s.tg := rfl

@[simp] theorem State.setDm_dm (s : State) (u : DemodUnit) :
    (s.setDm u).dm = u := rfl

@[simp] theorem State.setDm_vt (s : State) (u : DemodUnit) :
    (s.setDm u).vt = s.vt := rfl

@[simp] theorem State.setDm_gol (s : State) (u : DemodUnit) :
    (s.setDm u).gol = s.gol := rfl

@[simp] theorem State.setDm_crc (s : State) (u : DemodUnit) :
    (s.setDm u).crc = s.crc := rfl

@[simp] theorem State.setDm_asc (s : State) (u : DemodUnit) :
    (s.setDm u).asc = s.asc := rfl

@[simp] theorem State.setDm_txOut (s : State) (u : DemodUnit) :
    (s.setDm u).txOut = s.txOut := rfl

@[simp] theorem State.setDm_symOut (s : State) (u : DemodUnit) :
    (s.setDm u).symOut = s.symOut := rfl

@[simp] theorem State.setDm_params (s : State) (u : DemodUnit) :
    (s.setDm u).params = s.params := rfl

@[simp] theorem State.setDm_pending (s : State) (u : DemodUnit) :
    (s.setDm u).pending = s.pending := rfl

@[simp] theorem State.setDm_replies (s : State) (u : DemodUnit) :
    (s.setDm u).replies = s.replies := rfl

@[simp] theorem State.setDm_ready (s : State) (u : DemodUnit) :
    (s.setDm u).ready = s.ready := rfl

@[simp] theorem State.setDm_readyPlan (s : State) (u : DemodUnit) :
    (s.setDm u).readyPlan = s.readyPlan := rfl

@[simp] theorem State.setVt_err (s : State) (u : VoterUnit) :
    (s.setVt u).err = s.err := rfl

@[simp] theorem State.setVt_tg (s : State) (u : VoterUnit) :
    (s.setVt u).tg = s.tg := rfl

@[simp] theorem State.setVt_dm (s : State) (u : VoterUnit) :
    (s.setVt u).dm = s.dm := rfl

@[simp] theorem State.setVt_vt (s : State) (u : VoterUnit) :
    (s.setVt u).vt = u := rfl

@[simp] theorem State.setVt_gol (s : State) (u : VoterUnit) :
    (s.setVt u).gol = s.gol := rfl

@[simp] theorem State.setVt_crc (s : State) (u : VoterUnit) :
    (s.setVt u).crc = s.crc := rfl

@[simp] theorem State.setVt_asc (s : State) (u : VoterUnit) :
    (s.setVt u).asc = s.asc := rfl

@[simp] theorem State.setVt_txOut (s : State) (u : VoterUnit) :
    (s.setVt u).txOut = s.txOut := rfl

@[simp] theorem State.setVt_symOut (s : State) (u : VoterUnit) :
    (s.setVt u).symOut = s.symOut := rfl

@[simp] theorem State.setVt_params (s : State) (u : VoterUnit) :
    (s.setVt u).params = s.params := rfl

@[simp] theorem State.setVt_pending (s : State) (u : VoterUnit) :
    (s.setVt u).pending = s.pending := rfl

@[simp] theorem State.setVt_replies (s : State) (u : VoterUnit) :
    (s.setVt u).replies = s.replies := rfl

@[simp] theorem State.setVt_ready (s : State) (u : VoterUnit) :
    (s.setVt u).ready = s.ready := rfl

@[simp] theorem State.setVt_readyPlan (s : State) (u : VoterUnit) :
    (s.setVt u).readyPlan = s.readyPlan := rfl

@[simp] theorem State.setGol_err (s : State) (u : GolayUnit) :
    (s.setGol u).err = s.err := rfl

@[simp] theorem State.setGol_tg (s : State) (u : GolayUnit) :
    (s.setGol u).tg = s.tg := rfl

@[simp] theorem State.setGol_dm (s : State) (u : GolayUnit) :
    (s.setGol u).dm = s.dm := rfl

@[simp] theorem State.setGol_vt (s : State) (u : GolayUnit) :
    (s.setGol u).vt = s.vt := rfl

@[simp] theorem State.setGol_gol (s : State) (u : GolayUnit) :
    (s.setGol u).gol = u := rfl

@[simp] theorem State.setGol_crc (s : State) (u : GolayUnit) :
    (s.setGol u).crc = s.crc := rfl

@[simp] theorem State.setGol_asc (s : State) (u : GolayUnit) :
    (s.setGol u).asc = s.asc := rfl

@[simp] theorem State.setGol_txOut (s : State) (u : GolayUnit) :
    (s.setGol u).txOut = s.txOut := rfl

@[simp] theorem State.setGol_symOut (s : State) (u : GolayUnit) :
    (s.setGol u).symOut = s.symOut := rfl

@[simp] theorem State.setGol_params (s : State) (u : GolayUnit) :
    (s.setGol u).params = s.params := rfl

@[simp] theorem State.setGol_pending (s : State) (u : GolayUnit) :
    (s.setGol u).pending = s.pending := rfl

@[simp] theorem State.setGol_replies (s : State) (u : GolayUnit) :
    (s.setGol u).replies = s.replies := rfl

@[simp] theorem State.setGol_ready (s : State) (u : GolayUnit) :
    (s.setGol u).ready = s.ready := rfl

@[simp] theorem State.setGol_readyPlan (s : State) (u : GolayUnit) :
    (s.setGol u).readyPlan = s.readyPlan := rfl

@[simp] theorem State.setCrc_err (s : State) (u : CrcUnit) :
    (s.setCrc u).err = s.err := rfl

@[simp] theorem State.setCrc_tg (s : State) (u : CrcUnit) :
    (s.setCrc u).tg = s.tg := rfl

@[simp] theorem State.setCrc_dm (s : State) (u : CrcUnit) :
    (s.setCrc u).dm = s.dm := rfl

@[simp] theorem State.setCrc_vt (s : State) (u : CrcUnit) :
    (s.setCrc u).vt = s.vt := rfl

@[simp] theorem State.setCrc_gol (s : State) (u : CrcUnit) :
    (s.setCrc u).gol = s.gol := rfl

@[simp] theorem State.setCrc_crc (s : State) (u : CrcUnit) :
    (s.setCrc u).crc = u := rfl

@[simp] theorem State.setCrc_asc (s : State) (u : CrcUnit) :
    (s.setCrc u).asc = s.asc := rfl

@[simp] theorem State.setCrc_txOut (s : State) (u : CrcUnit) :
    (s.setCrc u).txOut = s.txOut := rfl

@[simp] theorem State.setCrc_symOut (s : State) (u : CrcUnit) :
    (s.setCrc u).symOut = s.symOut := rfl

@[simp] theorem State.setCrc_params (s : State) (u : CrcUnit) :
    (s.setCrc u).params = s.params := rfl

@[simp] theorem State.setCrc_pending (s : State) (u : CrcUnit) :
    (s.setCrc u).pending = s.pending := rfl

@[simp] theorem State.setCrc_replies (s : State) (u : CrcUnit) :
    (s.setCrc u).replies = s.replies := rfl

@[simp] theorem State.setCrc_ready (s : State) (u : CrcUnit) :
    (s.setCrc u).ready = s.ready := rfl

@[simp] theorem State.setCrc_readyPlan (s : State) (u : CrcUnit) :
    (s.setCrc u).readyPlan = s.readyPlan := rfl

@[simp] theorem State.setAsc_err (s : State) (u : AsciiUnit) :
    (s.setAsc u).err = s.err := rfl

@[simp] theorem State.setAsc_tg (s : State) (u : AsciiUnit) :
    (s.setAsc u).tg = s.tg := rfl

@[simp] theorem State.setAsc_dm (s : State) (u : AsciiUnit) :
    (s.setAsc u).dm = s.dm := rfl

@[simp] theorem State.setAsc_vt (s : State) (u : AsciiUnit) :
    (s.setAsc u).vt = s.vt := rfl

@[simp] theorem State.setAsc_gol (s : State) (u : AsciiUnit) :
    (s.setAsc u).gol = s.gol := rfl

@[simp] theorem State.setAsc_crc (s : State) (u : AsciiUnit) :
    (s.setAsc u).crc = s.crc := rfl

@[simp] theorem State.setAsc_asc (s : State) (u : AsciiUnit) :
    (s.setAsc u).asc = u := rfl

@[simp] theorem State.setAsc_txOut (s : State) (u : AsciiUnit) :
    (s.setAsc u).txOut = s.txOut := rfl

@[simp] theorem State.setAsc_symOut (s : State) (u : AsciiUnit) :
    (s.setAsc u).symOut = s.symOut := rfl

@[simp] theorem State.setAsc_params (s : State) (u : AsciiUnit) :
    (s.setAsc u).params = s.params := rfl

@[simp] theorem State.setAsc_pending (s : State) (u : AsciiUnit) :
    (s.setAsc u).pending = s.pending := rfl

@[simp] theorem State.setAsc_replies (s : State) (u : AsciiUnit) :
    (s.setAsc u).replies = s.replies := rfl

@[simp] theorem State.setAsc_ready (s : State) (u : AsciiUnit) :
    (s.setAsc u).ready = s.ready := rfl

@[simp] theorem State.setAsc_readyPlan (s : State) (u : AsciiUnit) :
    (s.setAsc u).readyPlan = s.readyPlan := rfl

@[simp] theorem State.emitTx_err (s : State) (xs : List Sample) :
    (s.emitTx xs).err = s.err := rfl

@[simp] theorem State.emitTx_tg (s : State) (xs : List Sample) :
    (s.emitTx xs).tg = s.tg := rfl

@[simp] theorem State.emitTx_dm (s : State) (xs : List Sample) :
    (s.emitTx xs).dm = s.dm := rfl

@[simp] theorem State.emitTx_vt (s : State) (xs : List Sample) :
    (s.emitTx xs).vt = s.vt := rfl

@[simp] theorem State.emitTx_gol (s : State) (xs : List Sample) :
    (s.emitTx xs).gol = s.gol := rfl

@[simp] theorem State.emitTx_crc (s : State) (xs : List Sample) :
    (s.emitTx xs).crc = s.crc := rfl

@[simp] theorem State.emitTx_asc (s : State) (xs : List Sample) :
    (s.emitTx xs).asc = s.asc := rfl

@[simp] theorem State.emitTx_txOut (s : State) (xs : List Sample) :
    (s.emitTx xs).txOut = s.txOut ++ xs := rfl

@[simp] theorem State.emitTx_symOut (s : State) (xs : List Sample) :
    (s.emitTx xs).symOut = s.symOut := rfl

@[simp] theorem State.emitTx_params (s : State) (xs : List Sample) :
    (s.emitTx xs).params = s.params := rfl

@[simp] theorem State.emitTx_pending (s : State) (xs : List Sample) :
    (s.emitTx xs).pending = s.pending := rfl

@[simp] theorem State.emitTx_replies (s : State) (xs : List Sample) :
    (s.emitTx xs).replies = s.replies := rfl

@[simp] theorem State.emitTx_ready (s : State) (xs : List Sample) :
    (s.emitTx xs).ready = s.ready := rfl

@[simp] theorem State.emitTx_readyPlan (s : State) (xs : List Sample) :
    (s.emitTx xs).readyPlan = s.readyPlan := rfl

@[simp] theorem State.emitSym_err (s : State) (r : SymRecord) :
    (s.emitSym r).err = s.err := rfl

@[simp] theorem State.emitSym_tg (s : State) (r : SymRecord) :
    (s.emitSym r).tg = s.tg := rfl

@[simp] theorem State.emitSym_dm (s : State) (r : SymRecord) :
    (s.emitSym r).dm = s.dm := rfl

@[simp] theorem State.emitSym_vt (s : State) (r : SymRecord) :
    (s.emitSym r).vt = s.vt := rfl

@[simp] theorem State.emitSym_gol (s : State) (r : SymRecord) :
    (s.emitSym r).gol = s.gol := rfl

@[simp] theorem State.emitSym_crc (s : State) (r : SymRecord) :
    (s.emitSym r).crc = s.crc := rfl

@[simp] theorem State.emitSym_asc (s : State) (r : SymRecord) :
    (s.emitSym r).asc = s.asc := rfl

@[simp] theorem State.emitSym_txOut (s : State) (r : SymRecord) :
    (s.emitSym r).txOut = s.txOut := rfl

@[simp] theorem State.emitSym_symOut (s : State) (r : SymRecord) :
    (s.emitSym r).symOut = s.symOut ++ [r] := rfl

@[simp] theorem State.emitSym_params (s : State) (r : SymRecord) :
    (s.emitSym r).params = s.params := rfl

@[simp] theorem State.emitSym_pending (s : State) (r : SymRecord) :
    (s.emitSym r).pending = s.pending := rfl

@[simp] theorem State.emitSym_replies (s : State) (r : SymRecord) :
    (s.emitSym r).replies = s.replies := rfl

@[simp] theorem State.emitSym_ready (s : State) (r : SymRecord) :
    (s.emitSym r).ready = s.ready := rfl

@[simp] theorem State.emitSym_readyPlan (s : State) (r : SymRecord) :
    (s.emitSym r).readyPlan = s.readyPlan := rfl

@[simp] theorem State.retire_err (s : State) :
    s.retire.err = s.err := rfl

@[simp] theorem State.retire_tg (s : State) :
    s.retire.tg = s.tg := rfl

@[simp] theorem State.retire_dm (s : State) :
    s.retire.dm = s.dm := rfl

@[simp] theorem State.retire_vt (s : State) :
    s.retire.vt = s.vt := rfl

@[simp] theorem State.retire_gol (s : State) :
    s.retire.gol = s.gol := rfl

@[simp] theorem State.retire_crc (s : State) :
    s.retire.crc = s.crc := rfl

@[simp] theorem State.retire_asc (s : State) :
    s.retire.asc = s.asc := rfl

@[simp] theorem State.retire_txOut (s : State) :
    s.retire.txOut = s.txOut := rfl

@[simp] theorem State.retire_symOut (s : State) :
    s.retire.symOut = s.symOut := rfl

@[simp] theorem State.retire_params (s : State) :
    s.retire.params = s.params := rfl

@[simp] theorem State.retire_pending (s : State) :
    s.retire.pending = s.pending.tail := rfl

@[simp] theorem State.retire_replies (s : State) :
    s.retire.replies = s.replies := rfl

@[simp] theorem State.retire_ready (s : State) :
    s.retire.ready = s.ready := rfl

@[simp] theorem State.retire_readyPlan (s : State) :
    s.retire.readyPlan = s.readyPlan := rfl

@[simp] theorem State.reply_err (s : State) (v : Word) :
    (s.reply v).err = s.err := rfl

@[simp] theorem State.reply_tg (s : State) (v : Word) :
    (s.reply v).tg = s.tg := rfl

@[simp] theorem State.reply_dm (s : State) (v : Word) :
    (s.reply v).dm = s.dm := rfl

@[simp] theorem State.reply_vt (s : State) (v : Word) :
    (s.reply v).vt = s.vt := rfl

@[simp] theorem State.reply_gol (s : State) (v : Word) :
    (s.reply v).gol = s.gol := rfl

@[simp] theorem State.reply_crc (s : State) (v : Word) :
    (s.reply v).crc = s.crc := rfl

@[simp] theorem State.reply_asc (s : State) (v : Word) :
    (s.reply v).asc = s.asc := rfl

@[simp] theorem State.reply_txOut (s : State) (v : Word) :
    (s.reply v).txOut = s.txOut := rfl

@[simp] theorem State.reply_symOut (s : State) (v : Word) :
    (s.reply v).symOut = s.symOut := rfl

@[simp] theorem State.reply_params (s : State) (v : Word) :
    (s.reply v).params = s.params := rfl

@[simp] theorem State.reply_pending (s : State) (v : Word) :
    (s.reply v).pending = s.pending := rfl

@[simp] theorem State.reply_replies (s : State) (v : Word) :
    (s.reply v).replies = s.replies ++ [v] := rfl

@[simp] theorem State.reply_ready (s : State) (v : Word) :
    (s.reply v).ready = s.ready := rfl

@[simp] theorem State.reply_readyPlan (s : State) (v : Word) :
    (s.reply v).readyPlan = s.readyPlan := rfl

@[simp] theorem State.sense_err (s : State) :
    s.sense.err = s.err := rfl

@[simp] theorem State.sense_tg (s : State) :
    s.sense.tg = s.tg := rfl

@[simp] theorem State.sense_dm (s : State) :
    s.sense.dm = s.dm := rfl

@[simp] theorem State.sense_vt (s : State) :
    s.sense.vt = s.vt := rfl

@[simp] theorem State.sense_gol (s : State) :
    s.sense.gol = s.gol := rfl

@[simp] theorem State.sense_crc (s : State) :
    s.sense.crc = s.crc := rfl

@[simp] theorem State.sense_asc (s : State) :
    s.sense.asc = s.asc := rfl

@[simp] theorem State.sense_txOut (s : State) :
    s.sense.txOut = s.txOut := rfl

@[simp] theorem State.sense_symOut (s : State) :
    s.sense.symOut = s.symOut := rfl

@[simp] theorem State.sense_params (s : State) :
    s.sense.params = s.params := rfl

@[simp] theorem State.sense_pending (s : State) :
    s.sense.pending = s.pending := rfl

@[simp] theorem State.sense_replies (s : State) :
    s.sense.replies = s.replies := rfl

@[simp] theorem State.sense_ready (s : State) :
    s.sense.ready = s.readyPlan.headD s.ready := rfl

@[simp] theorem State.sense_readyPlan (s : State) :
    s.sense.readyPlan = s.readyPlan.tail := rfl

@[simp] theorem State.resetUnits_err (s : State) :
    s.resetUnits.err = .reset := rfl

@[simp] theorem State.resetUnits_tg (s : State) :
    s.resetUnits.tg = .reset := rfl

@[simp] theorem State.resetUnits_dm (s : State) :
    s.resetUnits.dm = .reset := rfl

@[simp] theorem State.resetUnits_vt (s : State) :
    s.resetUnits.vt = .reset := rfl

@[simp] theorem State.resetUnits_gol (s : State) :
    s.resetUnits.gol = .reset := rfl

@[simp] theorem State.resetUnits_crc (s : State) :
    s.resetUnits.crc = .reset := rfl

@[simp] theorem State.resetUnits_asc (s : State) :
    s.resetUnits.asc = .reset := rfl

@[simp] theorem State.resetUnits_txOut (s : State) :
    s.resetUnits.txOut = s.txOut := rfl

@[simp] theorem State.resetUnits_symOut (s : State) :
    s.resetUnits.symOut = s.symOut := rfl

@[simp] theorem State.resetUnits_params (s : State) :
    s.resetUnits.params = s.params := rfl

@[simp] theorem State.resetUnits_pending (s : State) :
    s.resetUnits.pending = s.pending := rfl

@[simp] theorem State.resetUnits_replies (s : State) :
    s.resetUnits.replies = s.replies := rfl

@[simp] theorem State.resetUnits_ready (s : State) :
    s.resetUnits.ready = s.ready := rfl

@[simp] theorem State.resetUnits_readyPlan (s : State) :
    s.resetUnits.readyPlan = s.readyPlan := rfl

@[simp] theorem State.raiseCmdError_err (s : State) (e : CmdErr) (cmd : Word) :
    (s.raiseCmdError e cmd).err = { err := setErr s.err.err e, errCmd := if s.err.err = 0 then cmd else s.err.errCmd } := rfl

@[simp] theorem State.raiseCmdError_tg (s : State) (e : CmdErr) (cmd : Word) :
    (s.raiseCmdError e cmd).tg = s.tg := rfl

@[simp] theorem State.raiseCmdError_dm (s : State) (e : CmdErr) (cmd : Word) :
    (s.raiseCmdError e cmd).dm = s.dm := rfl

@[simp] theorem State.raiseCmdError_vt (s : State) (e : CmdErr) (cmd : Word) :
    (s.raiseCmdError e cmd).vt = s.vt := rfl

@[simp] theorem State.raiseCmdError_gol (s : State) (e : CmdErr) (cmd : Word) :
    (s.raiseCmdError e cmd).gol = s.gol := rfl

@[simp] theorem State.raiseCmdError_crc (s : State) (e : CmdErr) (cmd : Word) :
    (s.raiseCmdError e cmd).crc = s.crc := rfl

@[simp] theorem State.raiseCmdError_asc (s : State) (e : CmdErr) (cmd : Word) :
    (s.raiseCmdError e cmd).asc = s.asc := rfl

@[simp] theorem State.raiseCmdError_txOut (s : State) (e : CmdErr) (cmd : Word) :
    (s.raiseCmdError e cmd).txOut = s.txOut := rfl

@[simp] theorem State.raiseCmdError_symOut (s : State) (e : CmdErr) (cmd : Word) :
    (s.raiseCmdError e cmd).symOut = s.symOut := rfl

@[simp] theorem State.raiseCmdError_params (s : State) (e : CmdErr) (cmd : Word) :
    (s.raiseCmdError e cmd).params = s.params := rfl

@[simp] theorem State.raiseCmdError_pending (s : State) (e : CmdErr) (cmd : Word) :
    (s.raiseCmdError e cmd).pending = s.pending := rfl

@[simp] theorem State.raiseCmdError_replies (s : State) (e : CmdErr) (cmd : Word) :
    (s.raiseCmdError e cmd).replies = s.replies := rfl

@[simp] theorem State.raiseCmdError_ready (s : State) (e : CmdErr) (cmd : Word) :
    (s.raiseCmdError e cmd).ready = s.ready := rfl

@[simp] theorem State.raiseCmdError_readyPlan (s : State) (e : CmdErr) (cmd : Word) :
    (s.raiseCmdError e cmd).readyPlan = s.readyPlan := rfl

@[simp] theorem State.clearErrBits_err (s : State) (v : Word) :
    (s.clearErrBits v).err = { s.err with err := clearErr s.err.err v } := rfl

@[simp] theorem State.clearErrBits_tg (s : State) (v : Word) :
    (s.clearErrBits v).tg = s.tg := rfl

@[simp] theorem State.clearErrBits_dm (s : State) (v : Word) :
    (s.clearErrBits v).dm = s.dm := rfl

@[simp] theorem State.clearErrBits_vt (s : State) (v : Word) :
    (s.clearErrBits v).vt = s.vt := rfl

@[simp] theorem State.clearErrBits_gol (s : State) (v : Word) :
    (s.clearErrBits v).gol = s.gol := rfl

@[simp] theorem State.clearErrBits_crc (s : State) (v : Word) :
    (s.clearErrBits v).crc = s.crc := rfl

@[simp] theorem State.clearErrBits_asc (s : State) (v : Word) :
    (s.clearErrBits v).asc = s.asc := rfl

@[simp] theorem State.clearErrBits_txOut (s : State) (v : Word) :
    (s.clearErrBits v).txOut = s.txOut := rfl

@[simp] theorem State.clearErrBits_symOut (s : State) (v : Word) :
    (s.clearErrBits v).symOut = s.symOut := rfl

@[simp] theorem State.clearErrBits_params (s : State) (v : Word) :
    (s.clearErrBits v).params = s.params := rfl

@[simp] theorem State.clearErrBits_pending (s : State) (v : Word) :
    (s.clearErrBits v).pending = s.pending := rfl

@[simp] theorem State.clearErrBits_replies (s : State) (v : Word) :
    (s.clearErrBits v).replies = s.replies := rfl

@[simp] theorem State.clearErrBits_ready (s : State) (v : Word) :
    (s.clearErrBits v).ready = s.ready := rfl

@[simp] theorem State.clearErrBits_readyPlan (s : State) (v : Word) :
    (s.clearErrBits v).readyPlan = s.readyPlan := rfl

end Sys2Proof.Machine
end

