-- ==== Sys2Proof/Laws/Ops.lean ====
section
/-! SUPPORT. The shared operations: the register map is one to one, what reads and writes of the window do,
which accesses the bus protocol has, and the command-error update. -/

namespace Sys2Proof.Machine

/-- The register at a register's offset is that register (R71). -/
@[simp] theorem Reg.ofOffset?_offset (r : Reg) : Reg.ofOffset? r.offset = some r := by
  cases r with
  | tgPhase i =>
    have := i.isLt
    rw [show (Reg.tgPhase i).offset = 0x020 + 4 * i.val from rfl]
    unfold Reg.ofOffset?
    rw [if_neg (by omega), dif_pos (by omega)]
    simp
  | mag i =>
    have := i.isLt
    rw [show (Reg.mag i).offset = 0x100 + 4 * i.val from rfl]
    unfold Reg.ofOffset?
    rw [if_neg (by omega), dif_neg (by omega), dif_pos (by omega)]
    simp
  | vtSym i =>
    have := i.isLt
    rw [show (Reg.vtSym i).offset = 0x200 + 4 * i.val from rfl]
    unfold Reg.ofOffset?
    rw [if_neg (by omega), dif_neg (by omega), dif_neg (by omega), dif_pos (by omega)]
    simp
  | _ => rfl

/-- An offset that has a register is that register's offset (R71). -/
theorem Reg.offset_of_ofOffset? {a : Nat} {r : Reg} (h : Reg.ofOffset? a = some r) : r.offset = a := by
  unfold Reg.ofOffset? at h
  split at h
  · cases h
  · split at h
    · cases h; simp only [Reg.offset]; omega
    · split at h
      · cases h; simp only [Reg.offset]; omega
      · split at h
        · cases h; simp only [Reg.offset]; omega
        · unfold Reg.single? at h
          split at h <;> cases h <;> rfl

/-- No register of the map shares its offset with another ("No register aliases another", R30). -/
theorem Reg.offset_injective {r q : Reg} (h : r.offset = q.offset) : r = q := by
  have hr := Reg.ofOffset?_offset r
  rw [h, Reg.ofOffset?_offset q] at hr
  exact (Option.some.inj hr).symm

/-- A read at a register's offset reads that register (R73). -/
@[simp] theorem memRead_offset (s : State) (r : Reg) : memRead s r.offset = r.read s := by
  simp [memRead]

/-- A read depends on the units only (R73). -/
theorem memRead_congr {s t : State} (he : t.err = s.err) (ht : t.tg = s.tg) (hd : t.dm = s.dm)
    (hv : t.vt = s.vt) (hg : t.gol = s.gol) (hc : t.crc = s.crc) (ha : t.asc = s.asc) (a : Nat) :
    memRead t a = memRead s a := by
  unfold memRead
  split
  · next r _ => cases r <;> simp [Reg.read, he, ht, hd, hv, hg, hc, ha]
  · rfl

@[simp] theorem memRead_retire (s : State) (a : Nat) : memRead s.retire a = memRead s a :=
  memRead_congr rfl rfl rfl rfl rfl rfl rfl a

@[simp] theorem memRead_reply (s : State) (v : Word) (a : Nat) : memRead (s.reply v) a = memRead s a :=
  memRead_congr rfl rfl rfl rfl rfl rfl rfl a

@[simp] theorem memRead_sense (s : State) (a : Nat) : memRead s.sense a = memRead s a :=
  memRead_congr rfl rfl rfl rfl rfl rfl rfl a

@[simp] theorem memRead_emitTx (s : State) (xs : List Sample) (a : Nat) :
    memRead (s.emitTx xs) a = memRead s a :=
  memRead_congr rfl rfl rfl rfl rfl rfl rfl a

@[simp] theorem memRead_emitSym (s : State) (r : SymRecord) (a : Nat) :
    memRead (s.emitSym r) a = memRead s a :=
  memRead_congr rfl rfl rfl rfl rfl rfl rfl a

/-- To show that a window offset outside `changed` reads the same in two states, compare the registers whose
offsets are not in `changed`. -/
theorem memRead_eq_of_regs {changed : Nat → Prop} {s t : State}
    (h : ∀ r : Reg, ¬ changed r.offset → r.read t = r.read s) (a : Nat) (ha : ¬ changed a) :
    memRead t a = memRead s a := by
  unfold memRead
  split
  · next r hr => exact h r (by rw [Reg.offset_of_ofOffset? hr]; exact ha)
  · rfl

/-- What a window write does, in its four cases (R74). -/
theorem memWrite_cases (s : State) (a : Nat) (v : Word) :
    (a = Reg.err.offset ∧ memWrite s a v = s.clearErrBits v) ∨
    (a = Reg.tgAmp.offset ∧ memWrite s a v = s.setTg { s.tg with amp := v.setWidth 16 }) ∨
    (a = Reg.crcExpect.offset ∧ memWrite s a v = s.setCrc { s.crc with expect := v }) ∨
    memWrite s a v = s := by
  unfold memWrite
  split
  · next h => exact .inl ⟨(Reg.offset_of_ofOffset? h).symm, rfl⟩
  · next h => exact .inr (.inl ⟨(Reg.offset_of_ofOffset? h).symm, rfl⟩)
  · next h => exact .inr (.inr (.inl ⟨(Reg.offset_of_ofOffset? h).symm, rfl⟩))
  · exact .inr (.inr (.inr rfl))

/-- The accesses of the bus protocol (R72, R82). -/
theorem BusAccess.refusal?_eq_none {b : BusAccess} :
    b.refusal? = none ↔
      b.agent = .host ∧ b.width = 32 ∧ b.offset % 4 = 0 ∧ b.offset ≤ 0xFFF := by
  unfold BusAccess.refusal?
  split
  · simp_all
  · split
    · simp_all
    · split
      · simp_all
      · split
        · simp_all
        · simp_all

/-- A command error keeps every ERR bit that was set and sets its own (R331). -/
theorem getLsbD_setErr (err : BitVec 3) (e : CmdErr) (n : Nat) :
    (setErr err e).getLsbD n = (err.getLsbD n || decide (n = errBit e)) := by
  cases e <;> simp only [setErr, errMask, errBit, BitVec.getLsbD_or, BitVec.getLsbD_shiftLeft]
    <;> rcases n with _ | _ | _ | n <;> simp

/-- Write-1-to-clear, bit by bit (R35). -/
theorem getLsbD_clearErr (err : BitVec 3) (v : Word) (n : Nat) :
    (clearErr err v).getLsbD n = (err.getLsbD n && !v.getLsbD n) := by
  by_cases h : n < 3
  · simp [clearErr, h]
  · simp [clearErr, BitVec.getLsbD_of_ge err n (by omega)]

/-- `flagAt b n` has bit n equal to b and no other bit (R60). -/
theorem getLsbD_flagAt (b : Bool) (n j : Nat) (hj : j < 32) :
    (flagAt b n).getLsbD j = (b && decide (j = n)) := by
  simp only [flagAt, BitVec.getLsbD_shiftLeft, BitVec.getLsbD_setWidth, BitVec.getLsbD_ofBool]
  by_cases h : j = n
  · subst h; simp [hj]
  · by_cases h2 : j < n
    · simp [h2, h]
    · have : ¬ j - n = 0 := by omega
      simp [h, this]

end Sys2Proof.Machine
end

