-- ==== Sys2Proof/Laws/Exec.lean ====
section
/-! SUPPORT. What a command answers: always a next state, and which one. -/

namespace Sys2Proof.Machine

/-- No command stops: every meaning answers a next state (R336: no traps). -/
theorem exec_answers_next (i : Instr) (s : State) : ∃ t, exec i s = .next t := by
  cases i <;> exact ⟨_, rfl⟩

/-- VT_LOAD of an index in range (R221). -/
theorem exec_vtLoad_of_le {idx : Nat} (h : idx ≤ 146) (sym : BitVec 3) (s : State) :
    exec (.vtLoad idx sym) s =
      .next (s.setVt { s.vt with sym := s.vt.sym.set idx sym (by omega) }).retire := by
  simp only [exec, execVtLoad, dif_pos h]

/-- VT_LOAD of an index out of range (R221). -/
theorem exec_vtLoad_of_gt {idx : Nat} (h : 146 < idx) (sym : BitVec 3) (s : State) :
    exec (.vtLoad idx sym) s =
      .next (s.raiseCmdError .range (encode (.vtLoad idx sym))).retire := by
  simp only [exec, execVtLoad, dif_neg (Nat.not_le.mpr h)]

/-- What playing a tone does: it is held, or the samples are emitted and the tone generator advanced. -/
theorem playTone_cases (s : State) (sym : BitVec 3) (n : Nat) :
    ((n ≠ 0 ∧ s.ready.tx = false) ∧ s.playTone sym n = s) ∨
    ((n = 0 ∨ s.ready.tx = true) ∧
      s.playTone sym n =
        ((s.setTg (ToneUnit.samples sym n s.tg).2).emitTx (ToneUnit.samples sym n s.tg).1).retire) := by
  unfold State.playTone
  split
  · next h => exact .inr ⟨h, rfl⟩
  · next h => exact .inl ⟨by simpa [not_or] using h, rfl⟩

/-- What DM_PUSH does: inside a block, at a boundary, or held at a boundary. -/
theorem exec_dmPush_cases (x : Sample) (s : State) :
    (s.dm.atBoundary = false ∧
      exec (.dmPush x) s = .next (s.setDm (s.dm.store x).clearBlock).retire) ∨
    ((s.dm.atBoundary = true ∧ s.ready.sym = true) ∧
      exec (.dmPush x) s =
        .next ((s.setDm ((s.dm.store x).completeBlock s.params).1).emitSym
          ((s.dm.store x).completeBlock s.params).2).retire) ∨
    ((s.dm.atBoundary = true ∧ s.ready.sym = false) ∧ exec (.dmPush x) s = .next s) := by
  simp only [exec, execDmPush]
  split
  · next h =>
    split
    · next hr => exact .inr (.inl ⟨⟨h, hr⟩, rfl⟩)
    · next hr => exact .inr (.inr ⟨⟨h, by simpa using hr⟩, rfl⟩)
  · next h => exact .inl ⟨by simpa using h, rfl⟩

/-- The first sample comes from the phase before the increment, the rest from the advanced generator. -/
@[simp] theorem samples_succ (sym : BitVec 3) (n : Nat) (u : ToneUnit) :
    ToneUnit.samples sym (n + 1) u =
      (toneSample u.amp u.phase[toneIx sym] :: (ToneUnit.samples sym n (u.sample sym).2).1,
       (ToneUnit.samples sym n (u.sample sym).2).2) := rfl

@[simp] theorem samples_zero (sym : BitVec 3) (u : ToneUnit) : ToneUnit.samples sym 0 u = ([], u) := rfl

/-- Samples do not touch TG_AMP (R37). -/
@[simp] theorem samples_amp (sym : BitVec 3) (n : Nat) (u : ToneUnit) :
    (ToneUnit.samples sym n u).2.amp = u.amp := by
  induction n generalizing u with
  | zero => rfl
  | succ n ih => rw [samples_succ, ih]; rfl

/-- A run of n samples has n samples. -/
@[simp] theorem samples_length (sym : BitVec 3) (n : Nat) (u : ToneUnit) :
    (ToneUnit.samples sym n u).1.length = n := by
  induction n generalizing u with
  | zero => rfl
  | succ n ih => simp [ih]

end Sys2Proof.Machine
end

