-- ==== Sys2Proof/Laws/PerInstr.lean ====
section
/-! SUPPORT. One lemma per command: the two facts about its encoding that decoding needs, the opcode byte
where R110 puts it and every reserved bit of its format 0 (R113). -/

namespace Sys2Proof.Laws.OpcodeAndReserved

/-- The opcode byte stands in bits 7:0, and the reserved bits of the command's format are 0. -/
def Statement (i : Instr) : Prop :=
  field (encode i) 0 8 = i.opcode.code ∧ encode i &&& i.opcode.format.rsvdMask = 0

/-- Operand fields above bit 7 leave the opcode byte alone. -/
theorem field_opcode_or (op : Opcode) (rest : Word) (h : ∀ j, j < 8 → rest.getLsbD j = false) :
    field (place op.code 0 ||| rest) 0 8 = op.code := by
  apply BitVec.eq_of_getLsbD_eq
  intro j hj
  simp only [field, place, BitVec.getLsbD_extractLsb', BitVec.getLsbD_or, Nat.zero_add, h j hj, hj]
  simp
  omega

theorem nop : Statement .nop := by
  unfold Statement
  decide

theorem sysReset : Statement .sysReset := by
  unfold Statement
  decide

theorem tgReset : Statement .tgReset := by
  unfold Statement
  decide

theorem tgTone (sym : BitVec 3) (n : Nat) : Statement (.tgTone sym n) := by
  refine ⟨field_opcode_or _ _ fun j hj => ?_, ?_⟩
  · simp [Instr.operandBits, place, hj, show j < 16 by omega]
  · apply BitVec.eq_of_getLsbD_eq
    intro j hj
    simp only [encode, Instr.operandBits, place, Instr.opcode, Opcode.format, Opcode.code, Format.rsvdMask]
    interval_cases j <;> simp

theorem tgSymbol (sym : BitVec 3) : Statement (.tgSymbol sym) := by
  refine ⟨field_opcode_or _ _ fun j hj => ?_, ?_⟩
  · simp [Instr.operandBits, place, hj]
  · apply BitVec.eq_of_getLsbD_eq
    intro j hj
    simp only [encode, Instr.operandBits, place, Instr.opcode, Opcode.format, Opcode.code, Format.rsvdMask]
    interval_cases j <;> simp

theorem dmReset : Statement .dmReset := by
  unfold Statement
  decide

theorem dmPush (sample : Sample) : Statement (.dmPush sample) := by
  refine ⟨field_opcode_or _ _ fun j hj => ?_, ?_⟩
  · simp [Instr.operandBits, place, show j < 16 by omega]
  · apply BitVec.eq_of_getLsbD_eq
    intro j hj
    simp only [encode, Instr.operandBits, place, Instr.opcode, Opcode.format, Opcode.code, Format.rsvdMask]
    interval_cases j <;> simp

theorem vtLoad (idx : Nat) (sym : BitVec 3) : Statement (.vtLoad idx sym) := by
  refine ⟨field_opcode_or _ _ fun j hj => ?_, ?_⟩
  · simp [Instr.operandBits, place, hj, show j < 16 by omega]
  · apply BitVec.eq_of_getLsbD_eq
    intro j hj
    simp only [encode, Instr.operandBits, place, Instr.opcode, Opcode.format, Opcode.code, Format.rsvdMask]
    interval_cases j <;> simp

theorem vtRun : Statement .vtRun := by
  unfold Statement
  decide

theorem golEnc (info : BitVec 12) : Statement (.golEnc info) := by
  refine ⟨field_opcode_or _ _ fun j hj => ?_, ?_⟩
  · simp [Instr.operandBits, place, hj]
  · apply BitVec.eq_of_getLsbD_eq
    intro j hj
    simp only [encode, Instr.operandBits, place, Instr.opcode, Opcode.format, Opcode.code, Format.rsvdMask]
    interval_cases j <;> simp

theorem golDec (rx : BitVec 24) : Statement (.golDec rx) := by
  refine ⟨field_opcode_or _ _ fun j hj => ?_, ?_⟩
  · simp [Instr.operandBits, place, hj]
  · exact BitVec.and_zero

theorem ascEnc (c0 c1 c2 : Byte) : Statement (.ascEnc c0 c1 c2) := by
  refine ⟨field_opcode_or _ _ fun j hj => ?_, ?_⟩
  · simp [Instr.operandBits, place, hj, show j < 16 by omega, show j < 24 by omega]
  · exact BitVec.and_zero

theorem ascDec (payload : BitVec 21) : Statement (.ascDec payload) := by
  refine ⟨field_opcode_or _ _ fun j hj => ?_, ?_⟩
  · simp [Instr.operandBits, place, hj]
  · apply BitVec.eq_of_getLsbD_eq
    intro j hj
    simp only [encode, Instr.operandBits, place, Instr.opcode, Opcode.format, Opcode.code, Format.rsvdMask]
    interval_cases j <;> simp

theorem crcInit : Statement .crcInit := by
  unfold Statement
  decide

theorem crcByte (byte : Byte) : Statement (.crcByte byte) := by
  refine ⟨field_opcode_or _ _ fun j hj => ?_, ?_⟩
  · simp [Instr.operandBits, place, hj]
  · apply BitVec.eq_of_getLsbD_eq
    intro j hj
    simp only [encode, Instr.operandBits, place, Instr.opcode, Opcode.format, Opcode.code, Format.rsvdMask]
    interval_cases j <;> simp

theorem crcCheck : Statement .crcCheck := by
  unfold Statement
  decide

end Sys2Proof.Laws.OpcodeAndReserved
end

