-- ==== Sys2Proof/Laws/Step.lean ====
section
/-! SUPPORT. Everything a step can do, said once, and how an invariant of the step is shown from it. -/

namespace Sys2Proof.Machine

/-- If a step answers a next state, one of these happened: no access was pending; a read; a write that is
not a command; a command word that does not decode; a command. -/
theorem step_cases {s t : State} (h : step s = .next t) :
    (s.pending = [] ∧ t = s.sense) ∨
    ∃ b rest, s.pending = b :: rest ∧ b.refusal? = none ∧
      ((b.op = .read ∧ t = (s.sense.reply (memRead s b.offset)).retire) ∨
       (∃ v, b.op = .write v ∧ b.offset ≠ Reg.cmd.offset ∧
          t = (memWrite s.sense b.offset v).retire) ∨
       (∃ v e, b.op = .write v ∧ b.offset = Reg.cmd.offset ∧ decode v = .error e ∧
          t = (s.sense.raiseCmdError e v).retire) ∨
       (∃ v i, b.op = .write v ∧ b.offset = Reg.cmd.offset ∧ decode v = .ok i ∧
          exec i s.sense = .next t)) := by
  unfold step serve at h
  rw [State.sense_pending] at h
  split at h
  · next hp => exact .inl ⟨hp, by simpa using h.symm⟩
  · next b rest hp =>
    split at h
    · cases h
    · next hr =>
      refine .inr ⟨b, rest, hp, hr, ?_⟩
      unfold perform at h
      split at h
      · next ho => exact .inl ⟨ho, by simpa using h.symm⟩
      · next v ho =>
        split at h
        · next hc =>
          unfold execute at h
          split at h
          · next e he => exact .inr (.inr (.inl ⟨v, e, ho, hc, he, by simpa using h.symm⟩))
          · next i hi => exact .inr (.inr (.inr ⟨v, i, ho, hc, hi, h⟩))
        · next hc => exact .inr (.inl ⟨v, ho, hc, by simpa using h.symm⟩)

/-- A property is kept by every step if the five things a step can do keep it. -/
theorem step_keeps {P : State → Prop}
    (sense : ∀ s, P s → P s.sense)
    (read : ∀ s v, P s → P (s.reply v).retire)
    (write : ∀ s a v, P s → P (memWrite s a v).retire)
    (error : ∀ s e v, P s → P (s.raiseCmdError e v).retire)
    (command : ∀ s i t, P s → exec i s = .next t → P t)
    {s t : State} (hs : P s) (h : step s = .next t) : P t := by
  have hsense := sense s hs
  rcases step_cases h with ⟨-, rfl⟩ | ⟨b, rest, -, -, hcase⟩
  · exact hsense
  · rcases hcase with ⟨-, rfl⟩ | ⟨v, -, -, rfl⟩ | ⟨v, e, -, -, -, rfl⟩ | ⟨v, i, -, -, -, hx⟩
    · exact read _ _ hsense
    · exact write _ _ _ hsense
    · exact error _ _ _ hsense
    · exact command _ _ _ hsense hx

/-- A step in which the host's next access is outside the bus protocol is refused for that reason. -/
theorem step_refused {s : State} {b : BusAccess} {rest : List BusAccess} {r : Refusal}
    (hp : s.pending = b :: rest) (hr : b.refusal? = some r) : step s = .refused r := by
  simp only [step, serve, State.sense_pending, hp, hr]

/-- A step performs an access of the protocol. -/
theorem step_performs {s : State} {b : BusAccess} {rest : List BusAccess}
    (hp : s.pending = b :: rest) (hr : b.refusal? = none) : step s = perform b s.sense := by
  simp only [step, serve, State.sense_pending, hp, hr]

end Sys2Proof.Machine
end

