-- ==== Sys2Proof/Laws/Units.lean ====
section
/-! SUPPORT. The small lemmas of the units: what each unit operation does to each register of its unit, and
what each register reads as. -/

namespace Sys2Proof.Machine

section Tone
variable (u : ToneUnit) (sym : BitVec 3)

@[simp] theorem sample_fst : (u.sample sym).1 = toneSample u.amp u.phase[toneIx sym] := rfl
@[simp] theorem sample_amp : (u.sample sym).2.amp = u.amp := rfl
@[simp] theorem sample_phase :
    (u.sample sym).2.phase =
      u.phase.set (toneIx sym) (u.phase[toneIx sym] + toneInc sym) := rfl

/-- A sample advances its own accumulator (R142). -/
theorem sample_phase_self : (u.sample sym).2.phase[toneIx sym] = u.phase[toneIx sym] + toneInc sym := by
  simp

/-- A sample leaves every other accumulator (R142, R144). -/
theorem sample_phase_other (i : Fin 8) (h : i ≠ toneIx sym) :
    (u.sample sym).2.phase[i] = u.phase[i] := by
  have : (toneIx sym).val ≠ i.val := fun e => h (Fin.ext e.symm)
  simp [this]

end Tone

section Demod
variable (p : Params) (d : DemodUnit) (x : Sample)

@[simp] theorem store_win : (d.store x).win = d.win.set (winPos d.count) x := rfl
@[simp] theorem store_count : (d.store x).count = d.count + 1 := rfl
@[simp] theorem store_mag : (d.store x).mag = d.mag := rfl
@[simp] theorem store_sym : (d.store x).sym = d.sym := rfl
@[simp] theorem store_peak : (d.store x).peak = d.peak := rfl
@[simp] theorem store_noise : (d.store x).noise = d.noise := rfl
@[simp] theorem store_snr : (d.store x).snr = d.snr := rfl
@[simp] theorem store_sidx : (d.store x).sidx = d.sidx := rfl

@[simp] theorem clearBlock_win : d.clearBlock.win = d.win := rfl
@[simp] theorem clearBlock_count : d.clearBlock.count = d.count := rfl
@[simp] theorem clearBlock_mag : d.clearBlock.mag = d.mag := rfl
@[simp] theorem clearBlock_sym :
    d.clearBlock.sym = { sym := d.sym.sym, valid := d.sym.valid, block := false } := rfl
@[simp] theorem clearBlock_peak : d.clearBlock.peak = d.peak := rfl
@[simp] theorem clearBlock_noise : d.clearBlock.noise = d.noise := rfl
@[simp] theorem clearBlock_snr : d.clearBlock.snr = d.snr := rfl
@[simp] theorem clearBlock_sidx : d.clearBlock.sidx = d.sidx := rfl

@[simp] theorem completeBlock_win : (d.completeBlock p).1.win = d.win := rfl
@[simp] theorem completeBlock_count : (d.completeBlock p).1.count = d.count := rfl
@[simp] theorem completeBlock_mag : (d.completeBlock p).1.mag = smoothAll d.mag d.win := rfl
@[simp] theorem completeBlock_sym :
    (d.completeBlock p).1.sym =
      { sym := (detect p (smoothAll d.mag d.win)).sym
        valid := (detect p (smoothAll d.mag d.win)).valid, block := true } := rfl
@[simp] theorem completeBlock_peak :
    (d.completeBlock p).1.peak = (detect p (smoothAll d.mag d.win)).peak := rfl
@[simp] theorem completeBlock_noise :
    (d.completeBlock p).1.noise = (detect p (smoothAll d.mag d.win)).noise := rfl
@[simp] theorem completeBlock_snr :
    (d.completeBlock p).1.snr = (detect p (smoothAll d.mag d.win)).snr := rfl
@[simp] theorem completeBlock_sidx : (d.completeBlock p).1.sidx = d.count - 64 := rfl

/-- The record a block emits holds what the DM registers hold after it (R173). -/
theorem completeBlock_record :
    (d.completeBlock p).2 =
      { sym := (d.completeBlock p).1.sym.sym, valid := (d.completeBlock p).1.sym.valid
        peak := (d.completeBlock p).1.peak, noise := (d.completeBlock p).1.noise
        snr := (d.completeBlock p).1.snr, sidx := (d.completeBlock p).1.sidx } := rfl

/-- DM_COUNT[5:0] as a number is the count modulo 64 (R44). -/
@[simp] theorem winPos_val (count : Word) : (winPos count).val = count.toNat % 64 := by
  simp [winPos, BitVec.extractLsb'_toNat]

/-- A push completes a block iff the count before it is 63 modulo 64 (R44, R172). -/
theorem atBoundary_iff : d.atBoundary = true ↔ d.count.toNat % 64 = 63 := by
  have h := d.count.isLt
  simp only [DemodUnit.atBoundary, beq_iff_eq, Fin.ext_iff, winPos_val, BitVec.toNat_add]
  simp
  omega

end Demod

section Detector
variable (p : Params) (mag : Vector Word 64)

/-- Everything the detector can answer: the lowest winner with its peak and SNR, or the failure marker
(R206, R207). The noise floor is the same in both. -/
theorem detect_cases :
    (detectOk p.tiePolicy mag = true ∧ ∃ pk rest, winners mag = pk :: rest ∧
      detect p mag =
        { sym := BitVec.ofNat 3 (pk.val - 6), valid := true, peak := BitVec.ofNat 32 (bandMax mag),
          noise := BitVec.ofNat 32 (noiseFloor mag),
          snr := snr p.snrFn (BitVec.ofNat 32 (bandMax mag)) (BitVec.ofNat 32 (noiseFloor mag)) }) ∨
    ((detectOk p.tiePolicy mag = false ∨ winners mag = []) ∧
      detect p mag =
        { sym := 0, valid := false, peak := 0, noise := BitVec.ofNat 32 (noiseFloor mag), snr := 0 }) := by
  unfold detect
  cases hok : detectOk p.tiePolicy mag <;> cases hw : winners mag <;> simp

end Detector

section Golay
variable (rows : Vector (BitVec 12) 12) (rx : BitVec 24)

/-- Everything GOL_DEC's function can answer (R245). -/
theorem golayDecode_cases :
    (syndrome rows rx = 0 ∧
      golayDecode rows rx =
        { res := (infoOf rx).setWidth 24, stat := { nerr := 0, uncorr := false, op := true } }) ∨
    (syndrome rows rx ≠ 0 ∧ ∃ e, syndromeRom rows (syndrome rows rx) = some e ∧
      golayDecode rows rx =
        { res := (infoOf (rx ^^^ e)).setWidth 24
          stat := { nerr := BitVec.ofNat 4 (popcount e), uncorr := false, op := true } }) ∨
    (syndrome rows rx ≠ 0 ∧ syndromeRom rows (syndrome rows rx) = none ∧
      golayDecode rows rx =
        { res := (infoOf rx).setWidth 24, stat := { nerr := 0, uncorr := true, op := true } }) := by
  unfold golayDecode
  by_cases h : syndrome rows rx = 0
  · exact .inl ⟨h, by rw [if_pos h]⟩
  · rw [if_neg h]
    cases hs : syndromeRom rows (syndrome rows rx) with
    | some e => exact .inr (.inl ⟨h, e, rfl, rfl⟩)
    | none => exact .inr (.inr ⟨h, rfl, rfl⟩)

end Golay

section Reads
variable (s : State)

@[simp] theorem read_id : Reg.id.read s = idValue := rfl
@[simp] theorem read_cmd : Reg.cmd.read s = 0 := rfl
@[simp] theorem read_err : Reg.err.read s = s.err.err.setWidth 32 := rfl
@[simp] theorem read_errCmd : Reg.errCmd.read s = s.err.errCmd := rfl
@[simp] theorem read_tgAmp : Reg.tgAmp.read s = s.tg.amp.setWidth 32 := rfl
@[simp] theorem read_tgPhase (i : Fin 8) : (Reg.tgPhase i).read s = s.tg.phase[i] := rfl
@[simp] theorem read_dmSym : Reg.dmSym.read s = s.dm.sym.toWord := rfl
@[simp] theorem read_dmPeak : Reg.dmPeak.read s = s.dm.peak := rfl
@[simp] theorem read_dmNoise : Reg.dmNoise.read s = s.dm.noise := rfl
@[simp] theorem read_dmSnr : Reg.dmSnr.read s = s.dm.snr := rfl
@[simp] theorem read_dmSidx : Reg.dmSidx.read s = s.dm.sidx := rfl
@[simp] theorem read_dmCount : Reg.dmCount.read s = s.dm.count := rfl
@[simp] theorem read_vtWord : Reg.vtWord.read s = s.vt.word.setWidth 32 := rfl
@[simp] theorem read_vtErrs : Reg.vtErrs.read s = s.vt.errs.setWidth 32 := rfl
@[simp] theorem read_golRes : Reg.golRes.read s = s.gol.res.setWidth 32 := rfl
@[simp] theorem read_golStat : Reg.golStat.read s = s.gol.stat.toWord := rfl
@[simp] theorem read_crcState : Reg.crcState.read s = s.crc.state := rfl
@[simp] theorem read_crcValue : Reg.crcValue.read s = s.crc.value := rfl
@[simp] theorem read_crcExpect : Reg.crcExpect.read s = s.crc.expect := rfl
@[simp] theorem read_crcStat : Reg.crcStat.read s = crcStatWord s.crc.mtch := rfl
@[simp] theorem read_ascRes : Reg.ascRes.read s = s.asc.res := rfl
@[simp] theorem read_ascStat : Reg.ascStat.read s = s.asc.stat.toWord := rfl
@[simp] theorem read_mag (k : Fin 64) : (Reg.mag k).read s = s.dm.mag[k] := rfl
@[simp] theorem read_vtSym (i : Fin 147) : (Reg.vtSym i).read s = s.vt.sym[i].setWidth 32 := rfl

end Reads

section Crc
variable (st : Word)

@[simp] theorem crcFeed_nil : crcFeed st [] = st := rfl
@[simp] theorem crcFeed_cons (b : Byte) (bs : List Byte) :
    crcFeed st (b :: bs) = crcFeed (crcStep st b) bs := rfl

/-- Feeding two strings one after the other (R291). -/
theorem crcFeed_append (xs ys : List Byte) : crcFeed st (xs ++ ys) = crcFeed (crcFeed st xs) ys := by
  simp [crcFeed]

/-- Passes add up. -/
theorem crcShifts_add (m n : Nat) : crcShifts (m + n) st = crcShifts n (crcShifts m st) := by
  induction m generalizing st with
  | zero => simp [crcShifts]
  | succ m ih => rw [Nat.succ_add]; exact ih (crcShift st)

end Crc

section Wire
variable (b : Byte) (xs ys : List Byte)

@[simp] theorem wireBits_nil : wireBits [] = [] := rfl
@[simp] theorem wireBits_cons :
    wireBits (b :: xs) = ((List.range 8).map fun i => b.getLsbD (7 - i)) ++ wireBits xs := rfl

/-- The bits of two strings one after the other (R76). -/
theorem wireBits_append : wireBits (xs ++ ys) = wireBits xs ++ wireBits ys := by
  simp [wireBits]

/-- Eight bits a byte. -/
@[simp] theorem wireBits_length : (wireBits xs).length = 8 * xs.length := by
  induction xs with
  | nil => rfl
  | cons b xs ih => simp [ih]; omega

@[simp] theorem wireBytes_length (v : Word) : (wireBytes v).length = 4 := rfl

end Wire

end Sys2Proof.Machine
end

