-- ==== Sys2Proof/Tests/Slice0.lean ====
section
/-! SUPPORT. The model's own tests. Expected values are those the spec prints (30_encoding.md R119,
95_test_vectors.md) or that follow from its tables by hand; each test names its source. -/

namespace Sys2Proof.Tests

open Sys2Proof.Machine

/-! ### WellFormed: each check refuses an ill-formed command -/

theorem test_wellFormed_refuses_count_65536 : (Instr.tgTone 0 65536).wellFormed = false := by decide
theorem test_wellFormed_refuses_index_256 : (Instr.vtLoad 256 0).wellFormed = false := by decide
theorem test_wellFormed_admits_largest_operands :
    (Instr.tgTone 7 65535).wellFormed = true ∧ (Instr.vtLoad 255 7).wellFormed = true := by decide

/-! ### Decoding: words written out field by field from the formats of R110 -/

theorem test_decode_f0_control : decode 0b000_00000_0000_0000_00000_000_00000001 = .ok .sysReset := by decide
theorem test_decode_f0_nop : decode 0b000_00000_0000_0000_00000_000_00000000 = .ok .nop := by decide
theorem test_decode_f0_tgReset : decode 0b000_00000_0000_0000_00000_000_00010000 = .ok .tgReset := by decide
theorem test_decode_f0_dmReset : decode 0b000_00000_0000_0000_00000_000_00100000 = .ok .dmReset := by decide
theorem test_decode_f0_vtRun : decode 0b000_00000_0000_0000_00000_000_00110001 = .ok .vtRun := by decide
theorem test_decode_f0_crcInit : decode 0b000_00000_0000_0000_00000_000_01100000 = .ok .crcInit := by decide
theorem test_decode_f0_crcCheck : decode 0b000_00000_0000_0000_00000_000_01100010 = .ok .crcCheck := by decide
theorem test_decode_f1 : decode 0b100_00000_0000_0001_00000_101_00010001 = .ok (.tgTone 5 32769) := by decide
theorem test_decode_f2 : decode 0b000_00000_0000_0000_00000_110_00010010 = .ok (.tgSymbol 6) := by decide
theorem test_decode_f3 : decode 0b100_00000_0000_0001_00000_000_00100001 = .ok (.dmPush 0x8001) := by decide
theorem test_decode_f4 : decode 0b000_00000_0000_0_110_10010_010_00110000 = .ok (.vtLoad 146 6) := by decide
theorem test_decode_f5 : decode 0b000_00000_0000_1000_00000_011_01000000 = .ok (.golEnc 0x803) := by decide
theorem test_decode_f6 : decode 0b100_10001_1111_1010_10111_101_01000001 = .ok (.golDec 0x91FABD) := by decide
theorem test_decode_f7 : decode 0b010_01011_0011_0110_01001_100_01010000 = .ok (.ascEnc 0x4C 0x36 0x4B) := by
  decide
theorem test_decode_f8 : decode 0b000_10000_0000_0000_00000_011_01010001 = .ok (.ascDec 0x100003) := by decide
theorem test_decode_f9 : decode 0b000_00000_0000_0000_10000_001_01100001 = .ok (.crcByte 0x81) := by decide
/-- 95_test_vectors.md, E4: ILLEGAL_OP only. -/
theorem test_decode_illegal : decode 0xFFFFFF02 = .error .illegalOp := by decide
/-- 95_test_vectors.md, 2.3: reserved bit and IDX out of range, RSVD_NONZERO only. -/
theorem test_decode_reserved : decode 0x8000C830 = .error .rsvdNonzero := by decide
theorem test_decodeTableWord : decodeTableWord 32 0x00400311 = some (.tgTone 3 64) := by decide

/-! ### One step each, from reset or a small state -/

/-- The state after the step that writes a word to CMD; the state itself if the step stops. -/
def after (w : Nat) (s : State) : State :=
  match step (s.withFetchWord 32 w) with
  | .next t => t
  | .fault _ => s
  | .refused _ => s

/-- A read of a register after a command from reset. -/
def readAfter (w a : Nat) : Word := memRead (after w State.reset) a

/-- 95_test_vectors.md, E1 and 47_control.md R310. -/
theorem test_nop : after 0 State.reset = State.reset := by decide +kernel
/-- 95_test_vectors.md, E8. -/
theorem test_sysReset :
    (after 1 (after 0x7F State.reset)).err = ErrUnit.reset := by decide +kernel
/-- 40_tone_generator.md R143's example. -/
theorem test_tgReset : memRead (after 0x10 (after 0x000A0311 State.reset)) 0x02C = 0 := by decide +kernel
/-- 95_test_vectors.md, T1. -/
theorem test_tgTone_samples : (after 0x00080111 State.reset).txOut.map BitVec.toInt =
    [0, 14551, 22496, 20229, 8777, -6659, -19072, -22827] := by decide +kernel
/-- 95_test_vectors.md, T6: the clamp is hit both ways. -/
theorem test_tgTone_clamp :
    (after 0x00080011 (memWrite State.reset 0x010 0xFFFF)).txOut.map BitVec.toInt =
      [0, 32767, 32767, 32767, 32767, 12786, -25078, -32768] := by decide +kernel
/-- 95_test_vectors.md, T5: sample 37 of tone 7. -/
theorem test_tgSymbol : (after 0x00000712 State.reset).txOut.length = 64 ∧
    ((after 0x00000712 State.reset).txOut.map BitVec.toInt)[37]? = some (-2248) := by decide +kernel
/-- 41_spectral_estimator.md R171's example. -/
theorem test_dmReset : memRead (after 0x20 (after 0x03E80021 State.reset)) 0x054 = 0 := by decide +kernel
/-- 41_spectral_estimator.md R172: the first push. -/
theorem test_dmPush_inside : (after 0x80000021 State.reset).dm.win[0] = 0x8000 ∧
    readAfter 0x80000021 0x054 = 1 ∧ readAfter 0x80000021 0x040 = 0 := by decide +kernel

/-- A demodulator one push before a block boundary, its window all 0. -/
def beforeBoundary : State := State.reset.setDm { DemodUnit.reset with count := 63 }

/-- 95_test_vectors.md, D2: DM_SYM and the number of records. -/
theorem test_dmPush_boundary : (after 0x00000021 beforeBoundary).dm.sym =
      { sym := 0, valid := false, block := true } ∧
    (after 0x00000021 beforeBoundary).symOut.length = 1 := by decide +kernel

/-- 95_test_vectors.md, D5: the raw magnitude of an impulse. -/
theorem test_rawMag_impulse : rawMag ((Vector.replicate 64 0).set 0 32767) 6 = 8388096 := by decide +kernel
/-- 95_test_vectors.md, 2.2: PEAK from raw, with MAG 0. -/
theorem test_smooth : smooth 0 187894084 = 37578817 := by decide
/-- 95_test_vectors.md, D7: the SNR of a peak of 18789550 over a floor of 2. -/
theorem test_snrRef : snrRef 18789550 2 = 35701 := by decide +kernel
/-- 95_test_vectors.md, 2.2: the record of tone 3, from its magnitudes. -/
theorem test_detect : detect defaultParams ((Vector.replicate 64 0).set 9 37579101) =
    { sym := 3, valid := true, peak := 37579101, noise := 1, snr := 38784 } := by decide +kernel
/-- 95_test_vectors.md, D5: the vector that separates the two tie policies. -/
theorem test_detect_tie :
    (detect defaultParams (Vector.replicate 64 1677619)).valid = false ∧
    detect { defaultParams with tiePolicy := .lowestNonzero } (Vector.replicate 64 1677619) =
      { sym := 0, valid := true, peak := 1677619, noise := 1677619, snr := 0 } := by decide +kernel

/-- 43_majority_voter.md R221's examples. -/
theorem test_vtLoad : readAfter 0x00059230 0x448 = 5 := by decide +kernel
theorem test_vtLoad_range : readAfter 0x00009330 0x008 = 4 ∧ readAfter 0x00009330 0x00C = 0x9330 := by
  decide +kernel
/-- 95_test_vectors.md, V3: bit 5 is outvoted. -/
theorem test_vtRun :
    (after 0x31 (State.reset.setVt { VoterUnit.reset with sym := (Vector.replicate 147 7).set 54 0 })).vt.word
      = 0xFFFFFF ∧
    (after 0x31 (State.reset.setVt { VoterUnit.reset with sym := (Vector.replicate 147 7).set 54 0 })).vt.errs
      = 1 := by decide +kernel
/-- 95_test_vectors.md, 2.4. -/
theorem test_golEnc : readAfter 0x000ABC40 0x070 = 0x0011EABC := by decide +kernel
/-- 95_test_vectors.md, 2.4: weight 3 over both halves. -/
theorem test_golDec : readAfter 0x91FABD41 0x070 = 0xABC ∧ readAfter 0x91FABD41 0x074 = 0x00010003 := by
  decide +kernel
/-- 95_test_vectors.md, 2.4: weight 4. -/
theorem test_golDec_uncorrectable :
    readAfter 0x11EAB341 0x070 = 0xAB3 ∧ readAfter 0x11EAB341 0x074 = 0x00010100 := by decide +kernel
/-- 95_test_vectors.md, 2.5. -/
theorem test_ascEnc : readAfter 0x4B364B50 0x090 = 0x0012DB4B ∧ readAfter 0x4B364B50 0x094 = 0 := by
  decide +kernel
/-- 95_test_vectors.md, 2.5: bit 7 set is invalid, not truncated. -/
theorem test_ascEnc_bit7 : readAfter 0x4B36CB50 0x090 = 0xFFFFFFFF ∧ readAfter 0x4B36CB50 0x094 = 1 := by
  decide +kernel
/-- 95_test_vectors.md, 2.5. -/
theorem test_ascDec :
    readAfter 0x12DB4B51 0x090 = 0x004B364B ∧ readAfter 0x12DB4B51 0x094 = 0x00010000 := by decide +kernel
/-- 95_test_vectors.md, S4. -/
theorem test_ascDec_invalid :
    readAfter 0x05AA4D51 0x090 = 0x003F3F3F ∧ readAfter 0x05AA4D51 0x094 = 0x00010001 := by decide +kernel
/-- 46_crc32.md R292's example. -/
theorem test_crcInit : memRead (after 0x60 (after 0x4161 State.reset)) 0x080 = 0xFFFFFFFF := by decide +kernel
/-- 46_crc32.md R293's example. -/
theorem test_crcByte : readAfter 0x4161 0x080 = 0x7E4FD274 ∧ readAfter 0x4161 0x084 = 0x81B02D8B := by
  decide +kernel
/-- 46_crc32.md R294: no bytes and CRC_EXPECT = 0 match. -/
theorem test_crcCheck : readAfter 0x62 0x08C = 1 := by decide +kernel
/-- 46_crc32.md R290's check value. -/
theorem test_crc32_check_value :
    crc32 [0x31, 0x32, 0x33, 0x34, 0x35, 0x36, 0x37, 0x38, 0x39] = 0xFC891918 := by decide +kernel

/-- 95_test_vectors.md, E9: clearing ERR keeps ERR_CMD. -/
theorem test_clear_err_keeps_errCmd :
    memRead (memWrite (after 0x7F State.reset) 0x008 0xFFFFFFFF) 0x008 = 0 ∧
    memRead (memWrite (after 0x7F State.reset) 0x008 0xFFFFFFFF) 0x00C = 0x7F := by decide +kernel
/-- 95_test_vectors.md, P5: the first failure is kept. -/
theorem test_first_failure_kept :
    memRead (after 0x9330 (after 0x7F State.reset)) 0x008 = 5 ∧
    memRead (after 0x9330 (after 0x7F State.reset)) 0x00C = 0x7F := by decide +kernel
/-- 00_scope.md R10, R118: a count is cut into chunks of 65535. -/
theorem test_toneChunks : toneChunks 131071 = [65535, 65535, 1] := by decide
/-- 95_test_vectors.md, S2: Word1. -/
theorem test_aleWord : aleWord Preamble.toWord.code 0x12DB4B = 0x96DA5A := by decide

/-! ### Witnesses: states and operands that meet each statement's hypotheses -/

/-- A state whose next access is given. -/
def facing (b : BusAccess) : State := { State.reset with pending := [b] }

/-- A host write of 32 bits. -/
def hostWrite (a : Nat) (v : Word) : BusAccess :=
  { agent := .host, width := 32, offset := a, op := .write v }

/-- A host read of 32 bits. -/
def hostRead (a : Nat) : BusAccess := { agent := .host, width := 32, offset := a, op := .read }

/-- A state whose consumers refuse. -/
def refusing : State := { State.reset with ready := { tx := false, sym := false } }

theorem witness_DecodeReadsBackEncode :
    (Instr.tgTone 7 65535).wellFormed = true ∧ (Instr.vtLoad 255 7).wellFormed = true := by decide

theorem witness_EncodeReadsBackDecode : decode 0xFFFF0711 = .ok (.tgTone 7 65535) := by decide

theorem witness_IllegalOpcodesRaiseIllegalOp :
    illegalByte ((0xFFFFFF02 : Word).toNat % 256) = true ∧
    illegalByte ((0x000000FF : Word).toNat % 256) = true ∧
    illegalByte ((0x00000062 : Word).toNat % 256) = false := by decide

theorem witness_ReservedBitsRaiseRsvdNonzero :
    (0x30, 0xFFF80000) ∈ reservedMasks ∧ (0x8000C830 : Word).toNat % 256 = 0x30 ∧
    (0x8000C830 : Word) &&& 0xFFF80000 ≠ 0 ∧ (0x0007FF30 : Word) &&& 0xFFF80000 = 0 := by decide

theorem witness_OperandsAreTheFields :
    decode 0xFFFF0711 = .ok (.tgTone 7 65535) ∧ decode 0x00000712 = .ok (.tgSymbol 7) ∧
    decode 0x80000021 = .ok (.dmPush 0x8000) ∧ decode 0x7FFF0021 = .ok (.dmPush 0x7FFF) ∧
    decode 0x0007FF30 = .ok (.vtLoad 255 7) ∧ decode 0x000FFF40 = .ok (.golEnc 0xFFF) ∧
    decode 0xFFFFFF41 = .ok (.golDec 0xFFFFFF) ∧ decode 0xFF00FF50 = .ok (.ascEnc 0xFF 0 0xFF) ∧
    decode 0x1FFFFF51 = .ok (.ascDec 0x1FFFFF) ∧ decode 0x0000FF61 = .ok (.crcByte 0xFF) := by decide

theorem witness_StepRunsTheDecodedCommand :
    (State.reset.withFetchWord 32 0x4161).pending =
      { agent := .host, width := 32, offset := 0x004, op := .write 0x4161 } :: [] ∧
    decode 0x4161 = .ok (.crcByte 0x41) := by decide

theorem witness_HostWriteDoesThis :
    ∀ a ∈ [0x004, 0x008, 0x010, 0x088, 0x000, 0xFFC],
      (facing (hostWrite a 0xFFFFFFFF)).pending =
        { agent := .host, width := 32, offset := a, op := .write 0xFFFFFFFF } :: [] ∧
      a % 4 = 0 ∧ a ≤ 0xFFC := by decide

theorem witness_HostReadReturnsThis :
    (∀ a ∈ [Reg.id.offset, Reg.cmd.offset, Reg.ascStat.offset, Reg.crcValue.offset, 0x200, 0x448, 0x44C,
        0x098, 0xFFC],
      (facing (hostRead a)).pending =
        { agent := .host, width := 32, offset := a, op := .read } :: [] ∧ a % 4 = 0 ∧ a ≤ 0xFFC) ∧
    (0x094, 0xFFFEFFFE) ∈ zeroBits ∧ (0x448 = 0x200 + 4 * (146 : Fin 147).val) ∧
    ∀ r : Reg, r.offset ≠ 0x44C := by
  refine ⟨by decide, by decide, by decide, fun r h => ?_⟩
  have := Reg.offset r |>.le_refl
  cases r <;> simp only [Reg.offset] at h <;> omega

theorem witness_RefusedExactlyOutsideTheProtocol :
    ∀ b ∈ [hostRead 0xFFC, hostRead 0xFFE, hostRead 0x1000, { hostRead 0 with width := 16 },
      { hostRead 0 with agent := .other }], (facing b).pending = b :: [] := by decide

theorem witness_ProtocolStepsNeverStop :
    (facing (hostRead 0xFFC)).inProtocol = true ∧ (facing (hostRead 0xFFD)).inProtocol = false := by
  decide

theorem witness_CommandErrorHasExactlyThisEffect :
    decode 0x7F = .error .illegalOp ∧ decode 0x110 = .error .rsvdNonzero ∧
    decode 0x9330 = .ok (.vtLoad 147 0) ∧ 146 < 147 := by decide

theorem witness_FirstErrorWins :
    illegalByte ((0xFFFFFF63 : Word).toNat % 256) = true ∧ (0x30, 0xFFF80000) ∈ reservedMasks ∧
    ((0x0007FF30 : Word).toNat % 256 = 0x30 ∧ (0x0007FF30 : Word) &&& 0xFFF80000 = 0 ∧
      146 < (0x0007FF30 : Word).toNat / 2 ^ 8 % 2 ^ 8) ∧
    ((0x00009230 : Word) &&& 0xFFF80000 = 0 ∧ (0x00009230 : Word).toNat / 2 ^ 8 % 2 ^ 8 ≤ 146) ∧
    (0x8000C830 : Word) &&& 0xFFF80000 ≠ 0 ∧
    (0x62, 0xFFFFFF00) ∈ reservedMasks ∧ (0x00000062 : Word) &&& 0xFFFFFF00 = 0 := by decide

theorem witness_OnlySysResetClearsErrBits :
    exec .nop (State.reset.raiseCmdError .range 0) =
      .next (State.reset.raiseCmdError .range 0).retire ∧ Instr.nop ≠ .sysReset ∧
    (State.reset.raiseCmdError .range 0).err.err.getLsbD 2 = true := by
  refine ⟨rfl, by decide, by decide⟩

theorem witness_CommandsRunWhateverErrHolds :
    exec (.vtLoad 147 0) State.reset =
      .next (State.reset.raiseCmdError .range (encode (.vtLoad 147 0))).retire := rfl

theorem witness_TgToneEmitsSamples :
    State.reset.ready.tx = true ∧ (0 = 0 ∨ refusing.ready.tx = true) := by decide

theorem witness_ToneClosedForm : ToneUnit.reset.phase[toneIx 7] = 0 ∧ 64 < 65 := by decide

theorem witness_TgSymbolIsTgTone64 : State.reset.ready.tx = true := by decide

theorem witness_RefusingConsumerHoldsTheCommand :
    refusing.ready.tx = false ∧ 1 ≠ 0 ∧
    (refusing.setDm { DemodUnit.reset with count := 0xFFFFFFFF }).ready.sym = false ∧
    (refusing.setDm { DemodUnit.reset with count := 0xFFFFFFFF }).dm.count.toNat % 64 = 63 := by decide

theorem witness_DmResetClearsTheDemodulator : isDmReg 0x040 ∧ isDmReg 0x054 ∧ isMag 0x100 ∧ isMag 0x1FC :=
  ⟨by unfold isDmReg; omega, by unfold isDmReg; omega, ⟨0, rfl⟩, ⟨63, rfl⟩⟩

theorem witness_PushInsideABlock :
    State.reset.dm.count.toNat % 64 ≠ 63 ∧
    (State.reset.setDm { DemodUnit.reset with count := 62 }).dm.count.toNat % 64 ≠ 63 := by decide

theorem witness_PushCompletesABlock :
    beforeBoundary.dm.count.toNat % 64 = 63 ∧ beforeBoundary.ready.sym = true ∧
    (State.reset.setDm { DemodUnit.reset with count := 0xFFFFFFFF }).dm.count.toNat % 64 = 63 := by
  decide

theorem witness_SmoothingConverges : 0 + 2 < 3 ∧ 3 + 2 < 6 := by decide

theorem witness_MirrorBinsAndBinZero : 1 ≤ 63 ∧ 63 ≤ 63 := by decide

/-- Magnitudes with one winner, bin 13. -/
def oneWinner : Vector Word 64 := (Vector.replicate 64 5).set 13 6

theorem witness_WinnerUnderEachTiePolicy :
    defaultParams.tiePolicy = .strict ∧ BandBin 13 ∧ BandBin 6 ∧
    (∀ k : Fin 64, BandBin k → (Vector.replicate 64 (0 : Word))[k] = 0) ∧
    (detect defaultParams (Vector.replicate 64 0)).valid = false ∧
    (detect defaultParams oneWinner).valid = true ∧
    (∀ j : Fin 64, BandBin j → j ≠ 13 → oneWinner[j].toNat < oneWinner[(13 : Fin 64)].toNat) ∧
    (Params.mk .lowestNonzero .reference defaultGolayRows).tiePolicy = .lowestNonzero ∧
    (Vector.replicate 64 (5 : Word))[(6 : Fin 64)] ≠ 0 ∧
    (∀ j : Fin 64, BandBin j → j < 6 →
      (Vector.replicate 64 (5 : Word))[j].toNat < (Vector.replicate 64 (5 : Word))[(6 : Fin 64)].toNat) ∧
    (∀ j : Fin 64, BandBin j →
      (Vector.replicate 64 (5 : Word))[j].toNat ≤
        (Vector.replicate 64 (5 : Word))[(6 : Fin 64)].toNat) := by
  unfold BandBin
  decide +kernel

theorem witness_SnrReferenceIsTheFormula :
    (1 ≤ 4294967295 ∧ 4294967295 < 2 ^ 32) ∧ 1 ≤ 1 ∧ 1073741823 < 2 ^ 30 := by decide

theorem witness_SnrFnChangesOnlySnr :
    exec .dmReset State.reset = .next (State.reset.setDm .reset).retire ∧
    exec .dmReset { State.reset with params := { State.reset.params with snrFn := .other } } =
      .next (({ State.reset with params := { State.reset.params with snrFn := .other } } : State).setDm
        .reset).retire := ⟨rfl, rfl⟩

theorem witness_VtLoadStoresOrRaisesRange : 146 ≤ 146 ∧ (147 ≤ 147 ∧ 147 ≤ 255) ∧ 147 ≤ 255 ∧ 255 ≤ 255 := by
  decide

theorem witness_VoterReadsOnlyItsBits :
    (∀ (b : Fin 24) (c : Fin 3),
      ((Vector.replicate 147 (0 : BitVec 3))[b.val + 49 * c.val]'(by omega)).getLsbD (b.val % 3) =
        (((Vector.replicate 147 (0 : BitVec 3)).set 24 7)[b.val + 49 * c.val]'(by omega)).getLsbD
          (b.val % 3)) ∧
    ∃ ta, exec .vtRun (State.reset.setVt { VoterUnit.reset with sym := Vector.replicate 147 0 }) = .next ta :=
  ⟨by decide +kernel, _, rfl⟩

theorem witness_VoterInvertsTheFill :
    ∀ (b : Fin 24) (c : Fin 3), State.reset.vt.sym[b.val + 49 * c.val]'(by omega) =
      (BitVec.ofBool ((0 : BitVec 24).getLsbD b.val)).setWidth 3 <<< (b.val % 3) := by decide +kernel

theorem witness_GolDecHasThreeOutcomes :
    syndrome State.reset.params.golayRows 0x11EABC = 0 ∧
    (syndrome State.reset.params.golayRows 0x91FABD ≠ 0 ∧
      (1 ≤ popcount (0x801001 : BitVec 24) ∧ popcount (0x801001 : BitVec 24) ≤ 3 ∧
        syndrome State.reset.params.golayRows 0x801001 =
          syndrome State.reset.params.golayRows 0x91FABD)) := by decide +kernel

/-- The third clause's hypothesis, met with all rows 0 by a word whose parity has weight 4. -/
theorem witness_GolDecHasThreeOutcomes_uncorrectable :
    syndrome (Vector.replicate 12 0) 0xF00000 ≠ 0 ∧
    ∀ e : BitVec 24, 1 ≤ popcount e → popcount e ≤ 3 →
      syndrome (Vector.replicate 12 0) e ≠ syndrome (Vector.replicate 12 0) 0xF00000 := by
  have hpar : ∀ info : BitVec 12, golayParity (Vector.replicate 12 0) info = 0 := by
    intro info
    simp [golayParity, List.finRange_succ]
  refine ⟨by decide +kernel, fun e _ h3 heq => ?_⟩
  simp only [syndrome, hpar] at heq
  have hbit : ∀ j, j ∈ [20, 21, 22, 23] → e.getLsbD j = true := by
    intro j hj
    have := congrArg (fun v => v.getLsbD (j - 12)) heq
    simp only [List.mem_cons, List.not_mem_nil, or_false] at hj
    rcases hj with rfl | rfl | rfl | rfl <;> simpa [parityOf] using this
  have hsub : [20, 21, 22, 23].Sublist ((List.range 24).filter fun i => e.getLsbD i) := by
    have : [20, 21, 22, 23].filter (fun i => e.getLsbD i) = [20, 21, 22, 23] :=
      List.filter_eq_self.mpr hbit
    rw [← this]
    exact List.Sublist.filter _ (by decide)
  have := hsub.length_le
  simp only [popcount] at h3
  simp at this
  omega

theorem witness_CorrectionUnderTheDefaultTable :
    State.reset.params.golayRows = defaultGolayRows ∧ popcount (0 : BitVec 24) ≤ 3 ∧
    popcount (0x801001 : BitVec 24) ≤ 3 ∧ popcount (0xF00000 : BitVec 24) = 4 ∧
    popcount (0x80000F : BitVec 24) = 5 := ⟨rfl, by decide, by decide, by decide, by decide⟩

theorem witness_CodecCommandsWriteTheseResults :
    isRA 0x20 = true ∧ isRA 0x5A = true ∧ isRA 0x5B = false ∧
    (isRA (payloadC0 0x12DB4B) = true ∧ isRA (payloadC1 0x12DB4B) = true ∧
      isRA (payloadC2 0x12DB4B) = true) ∧ isRA (payloadC2 0x05AA4D) = false := by decide

theorem witness_CodecRoundTrips :
    isRA 0x4B = true ∧ (asciiDecode 0x12DB4B).stat.invalid = false := by decide

/-- The CRC of the one-byte string 0. -/
def crcOfZero : Word := crc32 [0]

/-- A burst of 32 bits, from the last bit of the string to bit 1 of its CRC: it straddles five bytes. -/
theorem witness_ShortErrorsChangeTheCrc :
    let sent := wireBits ([0] ++ wireBytes crcOfZero)
    let got := wireBits ([1] ++ wireBytes (crcOfZero ^^^ 2))
    sent = sent.take 7 ++ (sent.drop 7).take 32 ++ sent.drop 39 ∧
    got = sent.take 7 ++ (got.drop 7).take 32 ++ sent.drop 39 ∧
    ((sent.drop 7).take 32).length = 32 ∧ ((got.drop 7).take 32).length = 32 ∧
    (sent.drop 7).take 32 ≠ (got.drop 7).take 32 := by decide +kernel

theorem witness_CrcValidateAnswersTheComparison :
    ({ State.reset with pending := crcValidate [0x41] 0 0 0 0 } : State).pending =
      crcValidate [0x41] 0 0 0 0 ++ [] := by decide

theorem witness_CommandsStayInTheirUnit :
    exec .crcCheck State.reset = .next (after 0x62 State.reset) ∧ Instr.crcCheck ≠ .sysReset ∧
    (after 0x62 State.reset).crc ≠ State.reset.crc := ⟨rfl, by decide, by decide⟩

theorem witness_StreamsOnlyGrow :
    ∃ t, step (beforeBoundary.withFetchWord 32 0x21) = .next t := ⟨_, rfl⟩

theorem witness_StepKeepsPhasesOnGrid : PhasesOnGrid State.reset ∧ step State.reset = .next State.reset := by
  refine ⟨?_, rfl⟩
  unfold PhasesOnGrid
  decide

theorem witness_StepKeepsMagnitudesBounded :
    MagnitudesBounded State.reset ∧ step State.reset = .next State.reset :=
  ⟨⟨by decide +kernel, by decide, by decide⟩, rfl⟩

theorem witness_StepKeepsResultsLegal : ResultsLegal State.reset ∧ step State.reset = .next State.reset :=
  ⟨by constructor <;> decide, rfl⟩

/-- A state 5 pushes after a block of silence, between two boundaries. -/
def betweenBlocks : State :=
  (State.reset.setDm { DemodUnit.reset with noise := 1, count := 69 }).emitSym
    { sym := 0, valid := false, peak := 0, noise := 1, snr := 0, sidx := 0 }

theorem witness_StepKeepsTheRecord :
    (RecordHeld State.reset ∧ step State.reset = .next State.reset) ∧
    RecordHeld betweenBlocks ∧ betweenBlocks.dm.noise ≠ 0 ∧
    step betweenBlocks = .next betweenBlocks :=
  ⟨⟨by constructor <;> decide, rfl⟩, by constructor <;> decide +kernel, by decide, rfl⟩

end Sys2Proof.Tests
end

section
/-! PROOF. What a command does, branch by branch, and what only commands change: the layer from which the
whole-machine statements of 10_state.md follow. -/

namespace Sys2Proof.Machine

/-- Every outcome of a command, with the condition under which it happens. -/
inductive Effect (s : State) : Instr → State → Prop
  | nop : Effect s .nop s.retire
  | sysReset : Effect s .sysReset s.resetUnits.retire
  | tgReset : Effect s .tgReset (s.setTg { s.tg with phase := Vector.replicate 8 0 }).retire
  | played {i : Instr} (sym : BitVec 3) (n : Nat)
      (cmd : i = .tgTone sym n ∨ i = .tgSymbol sym ∧ n = 64) (go : n = 0 ∨ s.ready.tx = true) :
      Effect s i
        ((s.setTg (ToneUnit.samples sym n s.tg).2).emitTx (ToneUnit.samples sym n s.tg).1).retire
  | toneHeld {i : Instr} (sym : BitVec 3) (n : Nat)
      (cmd : i = .tgTone sym n ∨ i = .tgSymbol sym ∧ n = 64) (busy : n ≠ 0 ∧ s.ready.tx = false) :
      Effect s i s
  | dmReset : Effect s .dmReset (s.setDm .reset).retire
  | stored (x : Sample) (inside : s.dm.atBoundary = false) :
      Effect s (.dmPush x) (s.setDm (s.dm.store x).clearBlock).retire
  | completed (x : Sample) (boundary : s.dm.atBoundary = true) (go : s.ready.sym = true) :
      Effect s (.dmPush x)
        ((s.setDm ((s.dm.store x).completeBlock s.params).1).emitSym
          ((s.dm.store x).completeBlock s.params).2).retire
  | pushHeld (x : Sample) (boundary : s.dm.atBoundary = true) (busy : s.ready.sym = false) :
      Effect s (.dmPush x) s
  | loaded (idx : Nat) (sym : BitVec 3) (ok : idx ≤ 146) :
      Effect s (.vtLoad idx sym)
        (s.setVt { s.vt with sym := s.vt.sym.set idx sym (by omega) }).retire
  | outOfRange (idx : Nat) (sym : BitVec 3) (high : 146 < idx) :
      Effect s (.vtLoad idx sym) (s.raiseCmdError .range (encode (.vtLoad idx sym))).retire
  | vtRun :
      Effect s .vtRun
        (s.setVt { s.vt with
          word := votedWord s.vt.sym
          errs := BitVec.ofNat 5 (disagreements s.vt.sym) }).retire
  | golEnc (info : BitVec 12) :
      Effect s (.golEnc info)
        (s.setGol { res := golayCodeword s.params.golayRows info
                    stat := { nerr := 0, uncorr := false, op := false } }).retire
  | golDec (rx : BitVec 24) :
      Effect s (.golDec rx) (s.setGol (golayDecode s.params.golayRows rx)).retire
  | ascEnc (c0 c1 c2 : Byte) :
      Effect s (.ascEnc c0 c1 c2) (s.setAsc (asciiEncode c0 c1 c2)).retire
  | ascDec (payload : BitVec 21) :
      Effect s (.ascDec payload) (s.setAsc (asciiDecode payload)).retire
  | crcInit : Effect s .crcInit (s.setCrc { s.crc with state := 0xFFFFFFFF, mtch := false }).retire
  | crcByte (byte : Byte) :
      Effect s (.crcByte byte)
        (s.setCrc { s.crc with state := crcStep s.crc.state byte, mtch := false }).retire
  | crcCheck : Effect s .crcCheck (s.setCrc { s.crc with mtch := s.crc.value == s.crc.expect }).retire

/-- Playing a tone has one of the two effects of the tone commands. -/
theorem playTone_effect {i : Instr} (s : State) (sym : BitVec 3) (n : Nat)
    (cmd : i = .tgTone sym n ∨ i = .tgSymbol sym ∧ n = 64) : Effect s i (s.playTone sym n) := by
  rcases playTone_cases s sym n with ⟨busy, h⟩ | ⟨go, h⟩ <;> rw [h]
  · exact .toneHeld sym n cmd busy
  · exact .played sym n cmd go

/-- A command's next state is one of its effects. -/
theorem exec_effect {i : Instr} {s t : State} (h : exec i s = .next t) : Effect s i t := by
  cases i with
  | tgTone sym n => cases h; exact playTone_effect s sym n (.inl rfl)
  | tgSymbol sym => cases h; exact playTone_effect s sym 64 (.inr ⟨rfl, rfl⟩)
  | dmPush x =>
    rcases exec_dmPush_cases x s with ⟨hb, he⟩ | ⟨⟨hb, hr⟩, he⟩ | ⟨⟨hb, hr⟩, he⟩ <;>
      cases he.symm.trans h
    · exact .stored x hb
    · exact .completed x hb hr
    · exact .pushHeld x hb hr
  | vtLoad idx sym =>
    by_cases hi : idx ≤ 146
    · cases (exec_vtLoad_of_le hi sym s).symm.trans h
      exact .loaded idx sym hi
    · cases (exec_vtLoad_of_gt (by omega) sym s).symm.trans h
      exact .outOfRange idx sym (by omega)
  | _ => cases h; constructor

/-- What no access but a command changes: the phases, the demodulator, the results, the streams, the
parameters. -/
structure SameResults (s t : State) : Prop where
  phase  : t.tg.phase = s.tg.phase
  dm     : t.dm = s.dm
  vt     : t.vt = s.vt
  gol    : t.gol = s.gol
  asc    : t.asc = s.asc
  txOut  : t.txOut = s.txOut
  symOut : t.symOut = s.symOut
  params : t.params = s.params

/-- The ready inputs are no results. -/
theorem sense_sameResults (s : State) : SameResults s s.sense := by
  constructor <;> rfl

/-- A window write changes ERR, TG_AMP or CRC_EXPECT only (R74). -/
theorem memWrite_sameResults (s : State) (a : Nat) (v : Word) : SameResults s (memWrite s a v) := by
  rcases memWrite_cases s a v with ⟨-, h⟩ | ⟨-, h⟩ | ⟨-, h⟩ | h <;> rw [h] <;>
    constructor <;> rfl

/-- A step leaves the results as they are, or it is a command. -/
theorem step_sameResults_or_effect {s t : State} (h : step s = .next t) :
    SameResults s t ∨ ∃ i, Effect s.sense i t := by
  rcases step_cases h with ⟨-, rfl⟩ | ⟨b, -, -, -, hcase⟩
  · exact .inl (sense_sameResults s)
  · rcases hcase with ⟨-, rfl⟩ | ⟨v, -, -, rfl⟩ | ⟨v, e, -, -, -, rfl⟩ | ⟨v, i, -, -, -, hx⟩
    · exact .inl { sense_sameResults s with }
    · exact .inl { memWrite_sameResults s.sense b.offset v with }
    · exact .inl { sense_sameResults s with }
    · exact .inr ⟨i, exec_effect hx⟩

/-- An invariant of the results is kept by every step if every command keeps it. -/
theorem step_keeps_of_effect {P : State → Prop}
    (same : ∀ s t, SameResults s t → P s → P t)
    (command : ∀ s i t, P s → Effect s i t → P t)
    {s t : State} (hs : P s) (h : step s = .next t) : P t := by
  rcases step_sameResults_or_effect h with hsame | ⟨i, he⟩
  · exact same s t hsame hs
  · exact command _ i t (same s s.sense (sense_sameResults s) hs) he

end Sys2Proof.Machine
end

section
/-! PROOF. R61: the phase accumulators stay on the grid of multiples of 2^24. -/

namespace Sys2Proof.Machine

/-- A tone's increment is a multiple of 2^24, so it leaves the interpolation fraction (R61, R141). -/
theorem phaseFrac_add_toneInc (ph : Word) (sym : BitVec 3) :
    phaseFrac (ph + toneInc sym) = phaseFrac ph := by
  have hinc : (toneInc sym).setWidth 24 = 0 := by decide +revert
  have low (w : Word) : phaseFrac w = w.setWidth 24 :=
    (BitVec.setWidth_eq_extractLsb' (by decide)).symm
  rw [low, low, BitVec.setWidth_add _ _ (by decide), hinc, add_zero]

/-- A sample leaves every fraction (R142). -/
theorem sample_phaseFrac (u : ToneUnit) (sym : BitVec 3) (i : Fin 8) :
    phaseFrac (u.sample sym).2.phase[i] = phaseFrac u.phase[i] := by
  by_cases hi : i = toneIx sym
  · subst hi
    rw [sample_phase_self, phaseFrac_add_toneInc]
  · rw [sample_phase_other u sym i hi]

/-- A run of samples leaves every fraction (R144). -/
theorem samples_phaseFrac (sym : BitVec 3) (n : Nat) (u : ToneUnit) (i : Fin 8) :
    phaseFrac (ToneUnit.samples sym n u).2.phase[i] = phaseFrac u.phase[i] := by
  induction n generalizing u with
  | zero => rfl
  | succ n ih => rw [samples_succ, ih, sample_phaseFrac]

/-- Accumulators that are 0 are on the grid. -/
theorem phasesOnGrid_of_phase_zero {s : State} (h : s.tg.phase = Vector.replicate 8 0) :
    PhasesOnGrid s := by
  intro i
  simp [h, phaseFrac]

/-- Every command keeps the phases on the grid. -/
theorem effect_keeps_phasesOnGrid {s t : State} {i : Instr} (hs : PhasesOnGrid s)
    (h : Effect s i t) : PhasesOnGrid t := by
  cases h with
  | sysReset | tgReset => exact phasesOnGrid_of_phase_zero rfl
  | played sym n => exact fun k => (samples_phaseFrac sym n s.tg k).trans (hs k)
  | _ => exact hs

/-- Settles O56: only the tone commands move a phase, each by multiples of 2^24, and the resets zero it. -/
theorem stepKeepsPhasesOnGrid : Obligations.StepKeepsPhasesOnGrid := by
  unfold Obligations.StepKeepsPhasesOnGrid
  intro s t hs h
  refine step_keeps_of_effect (fun s t hsame hs k => ?_)
    (fun _ _ _ => effect_keeps_phasesOnGrid) hs h
  rw [hsame.phase]
  exact hs k

end Sys2Proof.Machine
end

section
/-! PROOF. What a command leaves alone: everything outside its unit, and ERR's value. -/

namespace Sys2Proof.Machine

/-- Settles O54: each effect replaces its own unit. -/
theorem commandsStayInTheirUnit : Obligations.CommandsStayInTheirUnit := by
  unfold Obligations.CommandsStayInTheirUnit
  intro i s t h hne
  cases exec_effect h with
  | sysReset => exact absurd rfl hne
  | played sym n cmd | toneHeld sym n cmd => rcases cmd with rfl | ⟨rfl, rfl⟩ <;> simp
  | outOfRange idx sym high => simp [high]
  | _ => simp

/-- Playing a tone does not look at ERR or ERR_CMD. -/
theorem playTone_setErrUnit (s : State) (u : ErrUnit) (sym : BitVec 3) (n : Nat) :
    (s.setErrUnit u).playTone sym n = (s.playTone sym n).setErrUnit u := by
  unfold State.playTone
  rw [State.setErrUnit_ready, State.setErrUnit_tg]
  split <;> rfl

/-- A push does not look at ERR or ERR_CMD. -/
theorem exec_dmPush_setErrUnit {s t : State} {x : Sample} (u : ErrUnit)
    (h : exec (.dmPush x) s = .next t) :
    exec (.dmPush x) (s.setErrUnit u) = .next (t.setErrUnit u) := by
  rcases exec_dmPush_cases x s with ⟨hb, he⟩ | ⟨⟨hb, hr⟩, he⟩ | ⟨⟨hb, hr⟩, he⟩ <;>
    cases he.symm.trans h
  · simp only [exec, execDmPush, State.setErrUnit_dm, hb]
    rfl
  · simp only [exec, execDmPush, State.setErrUnit_dm, State.setErrUnit_ready, hb, hr]
    rfl
  · simp only [exec, execDmPush, State.setErrUnit_dm, State.setErrUnit_ready, hb, hr]
    rfl

/-- Settles O15: every command but SYS_RESET and a VT_LOAD out of range passes ERR and ERR_CMD on as it
finds them, and those two write nothing else from them. -/
theorem commandsRunWhateverErrHolds : Obligations.CommandsRunWhateverErrHolds := by
  unfold Obligations.CommandsRunWhateverErrHolds
  intro i s t u h
  cases i with
  | sysReset => cases h; exact ⟨.reset, rfl⟩
  | tgTone sym n => cases h; exact ⟨u, congrArg Host.Outcome.next (playTone_setErrUnit s u sym n)⟩
  | tgSymbol sym => cases h; exact ⟨u, congrArg Host.Outcome.next (playTone_setErrUnit s u sym 64)⟩
  | dmPush x => exact ⟨u, exec_dmPush_setErrUnit u h⟩
  | vtLoad idx sym =>
    by_cases hi : idx ≤ 146
    · cases (exec_vtLoad_of_le hi sym s).symm.trans h
      exact ⟨u, exec_vtLoad_of_le hi sym _⟩
    · cases (exec_vtLoad_of_gt (by omega) sym s).symm.trans h
      exact ⟨_, exec_vtLoad_of_gt (by omega) sym (s.setErrUnit u)⟩
  | _ => cases h; exact ⟨u, rfl⟩

/-- Settles O7: the access is a 32-bit write of the host to CMD, so the step executes its word. -/
theorem stepRunsTheDecodedCommand : Obligations.StepRunsTheDecodedCommand := by
  unfold Obligations.StepRunsTheDecodedCommand
  intro s v i rest hp hd
  have hexec : execute v s.sense = exec i s.sense := by simp only [execute, hd]
  rw [step_performs hp (BusAccess.refusal?_eq_none.mpr (by simp)), ← hexec]
  rfl

/-- What a command may do to the streams: TX_OUT grows, and SYM_OUT stays or takes the record of the block
that a push completes (R59, R173). -/
theorem effect_streams {s t : State} {i : Instr} (h : Effect s i t) :
    (∃ xs, t.txOut = s.txOut ++ xs) ∧
    (t.symOut = s.symOut ∨
      s.dm.count.toNat % 64 = 63 ∧ t.dm.count = s.dm.count + 1 ∧
        ∃ r, t.symOut = s.symOut ++ [r] ∧ t.dmRecord = r) := by
  cases h with
  | played sym n => exact ⟨⟨_, rfl⟩, .inl rfl⟩
  | completed x boundary =>
    exact ⟨⟨[], (List.append_nil _).symm⟩, .inr ⟨(atBoundary_iff _).mp boundary, rfl, _, rfl, rfl⟩⟩
  | _ => exact ⟨⟨[], (List.append_nil _).symm⟩, .inl rfl⟩

/-- Settles O55: beside commands nothing touches a stream, and a command only appends. -/
theorem streamsOnlyGrow : Obligations.StreamsOnlyGrow := by
  unfold Obligations.StreamsOnlyGrow
  intro s t h
  rcases step_sameResults_or_effect h with hsame | ⟨i, he⟩
  · exact ⟨⟨[], by rw [hsame.txOut, List.append_nil]⟩, .inl hsame.symOut⟩
  · simpa using effect_streams he

end Sys2Proof.Machine
end

section
/-! PROOF. R48, R50, R51, R56, R57: the values the voter, the Golay unit and the ASCII codec can hold. -/

namespace Sys2Proof.Machine

/-- The clauses of `ResultsLegal` about the Golay unit (R50, R51). -/
structure GolayUnit.Legal (g : GolayUnit) : Prop where
  count  : g.stat.nerr.toNat ≤ 3
  encode : g.stat.op = false → g.stat.nerr = 0 ∧ g.stat.uncorr = false
  uncorr : g.stat.uncorr = true → g.stat.nerr = 0
  info   : g.stat.op = true → g.res.extractLsb' 12 12 = 0

/-- The clauses of `ResultsLegal` about the ASCII codec (R56, R57). -/
structure AsciiUnit.Legal (a : AsciiUnit) : Prop where
  sentinel   : a.stat.invalid = true → a.stat.op = false → a.res = 0xFFFFFFFF
  questions  : a.stat.invalid = true → a.stat.op = true → a.res = 0x003F3F3F
  payload    : a.stat.invalid = false → a.stat.op = false → a.res.extractLsb' 21 11 = 0
  characters : a.stat.invalid = false → a.stat.op = true → a.res.extractLsb' 24 8 = 0

/-- `ResultsLegal` unit by unit. -/
theorem resultsLegal_iff (s : State) :
    ResultsLegal s ↔ s.vt.errs.toNat ≤ 24 ∧ s.gol.Legal ∧ s.asc.Legal :=
  ⟨fun ⟨hv, hc, he, hu, hi, hs, hq, hp, hch⟩ => ⟨hv, ⟨hc, he, hu, hi⟩, ⟨hs, hq, hp, hch⟩⟩,
   fun ⟨hv, ⟨hc, he, hu, hi⟩, ⟨hs, hq, hp, hch⟩⟩ => ⟨hv, hc, he, hu, hi, hs, hq, hp, hch⟩⟩

/-- There are 24 word bits to disagree in (R48, R222). -/
theorem disagreements_le (sym : Vector (BitVec 3) 147) : disagreements sym ≤ 24 := by
  simpa [disagreements] using
    List.length_filter_le (fun b => copiesDiffer sym b) (List.finRange 24)

/-- A set of `w` positions is a sublist of length `w` (R242). -/
theorem sublist_of_mem_positionSets {w : Nat} {l ps : List Nat} (h : ps ∈ positionSets w l) :
    ps.Sublist l ∧ ps.length = w := by
  induction l generalizing w ps with
  | nil => cases w <;> simp_all [positionSets]
  | cons p l ih =>
    cases w with
    | zero => simp_all [positionSets]
    | succ w =>
      simp only [positionSets, List.mem_append, List.mem_map] at h
      rcases h with ⟨qs, hq, rfl⟩ | h
      · obtain ⟨hsub, hlen⟩ := ih hq
        exact ⟨hsub.cons_cons p, by simp [hlen]⟩
      · obtain ⟨hsub, hlen⟩ := ih h
        exact ⟨hsub.cons p, hlen⟩

/-- The pattern of ascending positions has no 1 outside them. -/
theorem popcount_patternOf_le {ps : List Nat} (h : ps.SortedLT) :
    popcount (patternOf ps) ≤ ps.length := by
  refine ((List.nodup_range.filter _).subperm fun i hi => ?_).length_le
  have hbit : ((ps.map (2 ^ ·)).sum).testBit i = true := by
    have h24 : (patternOf ps).getLsbD i = true := (List.mem_filter.mp hi).2
    rw [patternOf, BitVec.getLsbD_ofNat, Bool.and_eq_true] at h24
    exact h24.2
  rwa [← Nat.mem_bitIndices, Nat.bitIndices_sum_map_two_pow h] at hbit

/-- Every enumerated error pattern has at most three 1s (R242). -/
theorem popcount_le_of_mem_errorPatterns {e : BitVec 24} (h : e ∈ errorPatterns) : popcount e ≤ 3 := by
  simp only [errorPatterns, List.mem_map, List.mem_flatMap] at h
  obtain ⟨ps, ⟨w, hw, hps⟩, rfl⟩ := h
  obtain ⟨hsub, hlen⟩ := sublist_of_mem_positionSets hps
  have hle := popcount_patternOf_le
    (((List.pairwise_lt_range (n := 24)).sublist hsub).sortedLT)
  have hw3 : w ≤ 3 := (by decide : ∀ w ∈ [1, 2, 3], w ≤ 3) w hw
  omega

/-- A pattern found in SYNDROME_ROM is an enumerated one (R242). -/
theorem mem_errorPatterns_of_syndromeRom {rows : Vector (BitVec 12) 12} {syn : BitVec 12}
    {e : BitVec 24} (h : syndromeRom rows syn = some e) : e ∈ errorPatterns := by
  unfold syndromeRom at h
  split at h
  · cases h
  · exact List.mem_of_find?_eq_some h

/-- A 12-bit word widened to 24 bits has its upper half 0. -/
theorem upperHalf_setWidth (v : BitVec 12) : (v.setWidth 24).extractLsb' 12 12 = 0 := by
  apply BitVec.eq_of_getLsbD_eq
  simp

/-- GOL_ENC's result is legal (R244). -/
theorem golayEncode_legal (res : BitVec 24) :
    GolayUnit.Legal { res := res, stat := { nerr := 0, uncorr := false, op := false } } := by
  constructor <;> simp

/-- GOL_DEC's result is legal (R245). -/
theorem golayDecode_legal (rows : Vector (BitVec 12) 12) (rx : BitVec 24) :
    (golayDecode rows rx).Legal := by
  rcases golayDecode_cases rows rx with ⟨-, h⟩ | ⟨-, e, he, h⟩ | ⟨-, -, h⟩ <;> rw [h]
  · constructor <;> simp [upperHalf_setWidth]
  · have hpop := popcount_le_of_mem_errorPatterns (mem_errorPatterns_of_syndromeRom he)
    have hcount : popcount e % 16 ≤ 3 := by omega
    constructor <;> simp [upperHalf_setWidth, hcount]
  · constructor <;> simp [upperHalf_setWidth]

/-- ASC_ENC's result is legal (R272). -/
theorem asciiEncode_legal (c0 c1 c2 : Byte) : (asciiEncode c0 c1 c2).Legal := by
  have hpayload (p : BitVec 21) : (p.setWidth 32).extractLsb' 21 11 = 0 := by
    apply BitVec.eq_of_getLsbD_eq
    simp
  unfold asciiEncode
  split <;> constructor <;> simp [hpayload]

/-- Three characters in their byte lanes leave the top byte 0 (R273). -/
theorem topByte_characters (c0 c1 c2 : Byte) :
    (c0.setWidth 32 ||| c1.setWidth 32 <<< 8 ||| c2.setWidth 32 <<< 16).extractLsb' 24 8 = 0 := by
  apply BitVec.eq_of_getLsbD_eq
  intro j hj
  have above (c : Byte) (n : Nat) (hn : 8 ≤ n) : c.getLsbD n = false := BitVec.getLsbD_of_ge c n hn
  simp [above c0 (24 + j) (by omega), above c1 (24 + j - 8) (by omega),
    above c2 (24 + j - 16) (by omega)]

/-- ASC_DEC's result is legal (R273). -/
theorem asciiDecode_legal (payload : BitVec 21) : (asciiDecode payload).Legal := by
  simp only [asciiDecode]
  split <;> constructor <;> simp [topByte_characters]

/-- The reset values are legal (R360). -/
theorem resultsLegal_of_reset {s : State} (hv : s.vt = .reset) (hg : s.gol = .reset)
    (ha : s.asc = .reset) : ResultsLegal s := by
  rw [resultsLegal_iff, hv, hg, ha]
  exact ⟨by decide, golayEncode_legal 0, by constructor <;> simp [AsciiUnit.reset]⟩

/-- Every command keeps the results legal. -/
theorem effect_keeps_resultsLegal {s t : State} {i : Instr} (hs : ResultsLegal s)
    (h : Effect s i t) : ResultsLegal t := by
  rw [resultsLegal_iff] at hs ⊢
  obtain ⟨hv, hg, ha⟩ := hs
  cases h with
  | sysReset => exact (resultsLegal_iff _).mp (resultsLegal_of_reset rfl rfl rfl)
  | vtRun => exact ⟨(Nat.mod_le _ _).trans (disagreements_le s.vt.sym), hg, ha⟩
  | golEnc info => exact ⟨hv, golayEncode_legal _, ha⟩
  | golDec rx => exact ⟨hv, golayDecode_legal _ rx, ha⟩
  | ascEnc c0 c1 c2 => exact ⟨hv, hg, asciiEncode_legal c0 c1 c2⟩
  | ascDec payload => exact ⟨hv, hg, asciiDecode_legal payload⟩
  | _ => exact ⟨hv, hg, ha⟩

/-- Settles O58: each command that writes a result register writes a legal value. -/
theorem stepKeepsResultsLegal : Obligations.StepKeepsResultsLegal := by
  unfold Obligations.StepKeepsResultsLegal
  intro s t hs h
  refine step_keeps_of_effect (fun s t hsame hs => ?_)
    (fun _ _ _ => effect_keeps_resultsLegal) hs h
  rw [resultsLegal_iff] at hs ⊢
  rwa [hsame.vt, hsame.gol, hsame.asc]

end Sys2Proof.Machine
end

section
/-! PROOF. R39-R43, R173, R204-R207: the DM registers are the record of the last completed block. -/

namespace Sys2Proof.Machine

/-- A running maximum is bounded by what bounds its start and the elements. -/
theorem foldl_max_le_iff (l : List Nat) (a b : Nat) :
    l.foldl max a ≤ b ↔ a ≤ b ∧ ∀ x ∈ l, x ≤ b := by
  induction l generalizing a with
  | nil => simp
  | cons x l ih => simp [ih, and_assoc]

section Detector
variable (p : Params) (mag : Vector Word 64)

/-- The band maximum is bounded by what bounds the eight band magnitudes (R201). -/
theorem bandMax_le_iff (b : Nat) : bandMax mag ≤ b ↔ ∀ k ∈ bandBins, mag[k].toNat ≤ b := by
  rw [bandMax, foldl_max_le_iff, List.forall_mem_map]
  simp

/-- The band maximum is a 32-bit number (R201). -/
theorem bandMax_lt : bandMax mag < 2 ^ 32 :=
  Nat.lt_of_le_pred (by decide) ((bandMax_le_iff mag _).mpr fun k _ => Nat.le_pred_of_lt mag[k].isLt)

/-- NOISE is at least 1 and a 32-bit number (R204). -/
theorem noiseFloor_bounds : 1 ≤ noiseFloor mag ∧ noiseFloor mag < 2 ^ 32 := by
  have hmin : (noiseBins.map fun k => mag[k].toNat).foldl min (2 ^ 32 - 1) ≤ 2 ^ 32 - 1 :=
    List.foldlRecOn (motive := (· ≤ 2 ^ 32 - 1)) _ _ le_rfl
      fun b hb _ _ => (min_le_left _ _).trans hb
  unfold noiseFloor
  omega

/-- The register keeps the noise floor exactly, so it is at least 1 (R204). -/
theorem one_le_detect_noise : 1 ≤ (detect p mag).noise.toNat := by
  obtain ⟨hlo, hhi⟩ := noiseFloor_bounds mag
  have hnoise : (detect p mag).noise = BitVec.ofNat 32 (noiseFloor mag) := by
    rcases detect_cases p mag with ⟨-, pk, rest, -, h⟩ | ⟨-, h⟩ <;> rw [h]
  rw [hnoise, BitVec.toNat_ofNat, Nat.mod_eq_of_lt hhi]
  exact hlo

/-- A success means that some band magnitude is not 0: with all eight 0 no bin wins alone (R202). -/
theorem bandMax_pos_of_detectOk {policy : TiePolicy} (h : detectOk policy mag = true) :
    0 < bandMax mag := by
  cases policy with
  | strict =>
    by_contra hzero
    have hmax : bandMax mag = 0 := by omega
    have hall : winners mag = bandBins := by
      rw [winners, hmax, List.filter_eq_self]
      exact fun k hk => beq_iff_eq.mpr (Nat.le_zero.mp ((bandMax_le_iff mag 0).mp hmax.le k hk))
    have height : bandBins.length = 8 := by decide
    simp [detectOk, hall, height] at h
  | lowestNonzero => simpa [detectOk] using h

/-- A failed detection answers SYM, PEAK and SNR 0 (R207). -/
theorem detect_failed (h : (detect p mag).valid = false) :
    (detect p mag).sym = 0 ∧ (detect p mag).peak = 0 ∧ (detect p mag).snr = 0 := by
  rcases detect_cases p mag with ⟨-, pk, rest, -, hd⟩ | ⟨-, hd⟩ <;> rw [hd] at h ⊢
  · cases h
  · exact ⟨rfl, rfl, rfl⟩

/-- A successful detection has PEAK at least 1 (R202, R205). -/
theorem one_le_detect_peak (h : (detect p mag).valid = true) : 1 ≤ (detect p mag).peak.toNat := by
  rcases detect_cases p mag with ⟨hok, pk, rest, -, hd⟩ | ⟨-, hd⟩ <;> rw [hd] at h ⊢
  · rw [BitVec.toNat_ofNat, Nat.mod_eq_of_lt (bandMax_lt mag)]
    exact bandMax_pos_of_detectOk mag hok
  · cases h

end Detector

/-- The position in the block moves on by one with the count (R44). -/
theorem count_succ_mod (c : Word) : (c + 1).toNat % 64 = (c.toNat + 1) % 64 := by
  rw [BitVec.toNat_add]
  exact Nat.mod_mod_of_dvd _ (by decide)

/-- One block back is the same position in the block (R43). -/
theorem count_sub_block_mod (c : Word) : (c - 64).toNat % 64 = c.toNat % 64 := by
  rw [BitVec.toNat_sub, Nat.mod_mod_of_dvd _ (by decide)]
  exact Nat.mul_add_mod 64 67108863 c.toNat

section Record
variable {s t : State}

/-- `RecordHeld` speaks of the demodulator, the parameters and SYM_OUT only. -/
theorem RecordHeld.of_eq (hs : RecordHeld s) (hd : t.dm = s.dm) (hp : t.params = s.params)
    (ho : t.symOut = s.symOut) : RecordHeld t := by
  cases s
  cases t
  cases hd
  cases hp
  cases ho
  exact { hs with }

/-- A demodulator at reset holds its reset record (R39-R43). -/
theorem RecordHeld.of_reset (hd : s.dm = .reset) : RecordHeld s := by
  constructor <;> simp [State.dmRecord, hd, DemodUnit.reset]

/-- A push inside a block keeps the record and clears BLOCK (R172). -/
theorem RecordHeld.of_stored {x : Sample} (hs : RecordHeld s) (hb : s.dm.atBoundary = false)
    (hd : t.dm = (s.dm.store x).clearBlock) (hp : t.params = s.params)
    (ho : t.symOut = s.symOut) : RecordHeld t := by
  have hrec : t.dmRecord = s.dmRecord := by simp [State.dmRecord, hd]
  have hcount : t.dm.count.toNat % 64 = s.dm.count.toNat % 64 + 1 := by
    have hinside : s.dm.count.toNat % 64 ≠ 63 := by simp [← atBoundary_iff, hb]
    have hnext : t.dm.count = s.dm.count + 1 := by simp [hd]
    rw [hnext, count_succ_mod]
    omega
  have hmag : t.dm.mag = s.dm.mag := by simp [hd]
  have hnoise : t.dm.noise = s.dm.noise := by simp [hd]
  constructor
  case failed => simpa [hd] using hs.failed
  case found => simpa [hd] using hs.found
  case index => simpa [hd] using hs.index
  case aligned => simp [hd]
  case completed => simp [hd]
  case fresh => rw [hnoise, hrec]; exact hs.fresh
  case position =>
    intro hn
    have hpos := hs.position (hnoise ▸ hn)
    rw [hcount, BitVec.ofNat_add]
    simpa [hd, add_sub_add_right_eq_sub] using hpos
  case detected => rw [hp, hmag]; simpa [hd] using hs.detected
  case newest => rw [hnoise, ho, hrec]; exact hs.newest

/-- A push that completes a block puts the detector's answer on the new MAG into the DM registers and into
SYM_OUT (R173). -/
theorem RecordHeld.of_completed {x : Sample} (hb : s.dm.atBoundary = true)
    (hd : t.dm = ((s.dm.store x).completeBlock s.params).1) (hp : t.params = s.params)
    (ho : t.symOut = s.symOut ++ [((s.dm.store x).completeBlock s.params).2]) : RecordHeld t := by
  have hcount : t.dm.count.toNat % 64 = 0 := by
    have hlast := (atBoundary_iff _).mp hb
    have hnext : t.dm.count = s.dm.count + 1 := by simp [hd]
    rw [hnext, count_succ_mod]
    omega
  have hsidx : t.dm.sidx = t.dm.count - 64 := by simp [hd]
  have hnoise : 1 ≤ t.dm.noise.toNat := hd ▸ one_le_detect_noise _ _
  have hne : t.dm.noise ≠ 0 := by
    intro h
    simp [h] at hnoise
  constructor
  case failed => rw [hd]; exact detect_failed _ _
  case found => exact fun hv => ⟨by rw [hd] at hv ⊢; exact one_le_detect_peak _ _ hv, hnoise⟩
  case index => rw [hsidx, count_sub_block_mod]; exact hcount
  case aligned => exact fun _ => hcount
  case completed => exact fun _ => hne
  case fresh => exact fun h => absurd h hne
  case position => intro _; rw [hcount, hsidx]; simp
  case detected => intro _; rw [hp, hd]; exact ⟨rfl, rfl, rfl, rfl, rfl⟩
  case newest => intro _; rw [ho, List.getLast?_concat]; simp [completeBlock_record, State.dmRecord, hd]

end Record

/-- Every command keeps the DM registers the record of the last block. -/
theorem effect_keeps_recordHeld {s t : State} {i : Instr} (hs : RecordHeld s) (h : Effect s i t) :
    RecordHeld t := by
  cases h with
  | sysReset | dmReset => exact .of_reset rfl
  | stored x inside => exact hs.of_stored inside rfl rfl rfl
  | completed x boundary => exact .of_completed boundary rfl rfl rfl
  | _ => exact hs.of_eq rfl rfl rfl

/-- Settles O59: the resets, a push inside a block and a push that completes one are all that write the DM
registers, and the detector's noise floor is never 0. -/
theorem stepKeepsTheRecord : Obligations.StepKeepsTheRecord := by
  unfold Obligations.StepKeepsTheRecord
  exact fun s t hs h => step_keeps_of_effect
    (fun s t hsame hs => hs.of_eq hsame.dm hsame.params hsame.symOut)
    (fun _ _ _ => effect_keeps_recordHeld) hs h

end Sys2Proof.Machine
end

section
/-! PROOF. R61, R360: the base case of the four invariants. -/

namespace Sys2Proof.Machine

/-- The magnitudes after reset are 0 (R360). -/
theorem magnitudesBounded_reset : MagnitudesBounded State.reset := by
  constructor <;> simp [State.reset, DemodUnit.reset]

/-- Settles O60: each invariant holds of the units' reset values. -/
theorem invariantsHoldAtReset : Obligations.InvariantsHoldAtReset := by
  unfold Obligations.InvariantsHoldAtReset
  exact ⟨phasesOnGrid_of_phase_zero rfl, magnitudesBounded_reset, resultsLegal_of_reset rfl rfl rfl,
    .of_reset rfl⟩

end Sys2Proof.Machine
end

section
/-! PROOF. R72, R82, R366: which accesses are refused, what a step does to the queue of accesses, and which
commands stay in it. -/

namespace Sys2Proof.Machine

/-- An access that is performed answers a next state (R73, R74, R75). -/
theorem perform_answers_next (b : BusAccess) (s : State) : ∃ t, perform b s = .next t := by
  unfold perform
  split
  · exact ⟨_, rfl⟩
  · next v _ =>
    split
    · unfold execute
      split
      · exact ⟨_, rfl⟩
      · exact exec_answers_next _ s
    · exact ⟨_, rfl⟩

/-- A step is refused iff the access at the front of the queue has a refusal (R72). -/
theorem step_refused_iff {s : State} {b : BusAccess} {rest : List BusAccess}
    (hp : s.pending = b :: rest) : (∃ r, step s = .refused r) ↔ b.refusal? ≠ none := by
  cases hr : b.refusal? with
  | some r => simp [step_refused hp hr]
  | none =>
    obtain ⟨t, ht⟩ := perform_answers_next b s.sense
    simp [step_performs hp hr, ht]

/-- A window write leaves the model's own inputs and outputs (R74). -/
theorem memWrite_outside (s : State) (a : Nat) (v : Word) :
    (memWrite s a v).pending = s.pending ∧ (memWrite s a v).replies = s.replies ∧
    (memWrite s a v).ready = s.ready ∧ (memWrite s a v).readyPlan = s.readyPlan := by
  rcases memWrite_cases s a v with ⟨-, h⟩ | ⟨-, h⟩ | ⟨-, h⟩ | h <;> rw [h] <;>
    exact ⟨rfl, rfl, rfl, rfl⟩

/-- A command leaves the queue as it is (held) or takes its own access off it (R75, R366). -/
theorem effect_pending {s t : State} {i : Instr} (h : Effect s i t) :
    t.pending = s.pending ∨ t.pending = s.pending.tail := by
  cases h with
  | toneHeld | pushHeld => exact .inl rfl
  | _ => exact .inr rfl

/-- A step adds no access to the queue: what is left of it is its end (R31, R82). -/
theorem step_pending_suffix {s t : State} (h : step s = .next t) : t.pending <:+ s.pending := by
  have tail_of {t : State} (ht : t.pending = s.pending.tail) : t.pending <:+ s.pending :=
    ht ▸ s.pending.tail_suffix
  rcases step_cases h with ⟨-, rfl⟩ | ⟨b, -, -, -, hcase⟩
  · exact List.suffix_rfl
  · rcases hcase with ⟨-, rfl⟩ | ⟨v, -, -, rfl⟩ | ⟨v, e, -, -, -, rfl⟩ | ⟨v, i, -, -, -, hx⟩
    · exact tail_of rfl
    · obtain ⟨hpending, -⟩ := memWrite_outside s.sense b.offset v
      exact tail_of (congrArg List.tail hpending)
    · exact tail_of rfl
    · rcases effect_pending (exec_effect hx) with heq | htail
      · exact heq ▸ List.suffix_rfl
      · exact tail_of htail

/-- Settles O11: the front access has no refusal, so it is performed, and every access left in the queue was
in it before. -/
theorem protocolStepsNeverStop : Obligations.ProtocolStepsNeverStop := by
  unfold Obligations.ProtocolStepsNeverStop
  intro s hs
  have hlegal : ∀ b ∈ s.pending, b.refusal? = none := by simpa [State.inProtocol] using hs
  have hnext : ∃ t, step s = .next t := by
    cases hp : s.pending with
    | nil => exact ⟨s.sense, by simp only [step, serve, State.sense_pending, hp]⟩
    | cons b rest =>
      rw [step_performs hp (hlegal b (by simp [hp]))]
      exact perform_answers_next b s.sense
  obtain ⟨t, ht⟩ := hnext
  have hleft : ∀ b ∈ t.pending, b.refusal? = none :=
    fun b hb => hlegal b ((step_pending_suffix ht).subset hb)
  exact ⟨t, ht, by simpa [State.inProtocol] using hleft⟩

/-- Settles O10: the front access has a refusal iff it breaks one of the four conditions of the protocol. -/
theorem refusedExactlyOutsideTheProtocol : Obligations.RefusedExactlyOutsideTheProtocol := by
  unfold Obligations.RefusedExactlyOutsideTheProtocol
  intro s b rest hp
  rw [step_refused_iff hp, ne_eq, BusAccess.refusal?_eq_none]
  simp only [not_and_or, not_le, ne_eq]

/-- A tone of at least one sample is held while the consumer of TX_OUT refuses (R80, R366). -/
theorem playTone_held {s : State} (hr : s.ready.tx = false) (sym : BitVec 3) {n : Nat} (hn : n ≠ 0) :
    s.playTone sym n = s := by
  rcases playTone_cases s sym n with ⟨-, h⟩ | ⟨go, -⟩
  · exact h
  · simp [hr, hn] at go

/-- Settles O24: the three commands that emit are held by the cases of `playTone` and of DM_PUSH. -/
theorem refusingConsumerHoldsTheCommand : Obligations.RefusingConsumerHoldsTheCommand := by
  unfold Obligations.RefusingConsumerHoldsTheCommand
  intro s
  refine ⟨fun hr sym n hn => congrArg Host.Outcome.next (playTone_held hr sym hn),
    fun hr sym => congrArg Host.Outcome.next (playTone_held hr sym (by decide)), fun hr hc x => ?_⟩
  have hb : s.dm.atBoundary = true := (atBoundary_iff s.dm).mpr hc
  rcases exec_dmPush_cases x s with ⟨inside, -⟩ | ⟨⟨-, go⟩, -⟩ | ⟨-, held⟩
  · simp [hb] at inside
  · simp [hr] at go
  · exact held

end Sys2Proof.Machine
end

section
/-! PROOF. R73, R74: what the host's reads and writes of the window do. -/

namespace Sys2Proof.Machine

/-- A 32-bit access of the host at a word of the window is performed (R72). -/
theorem step_performs_hostAccess {s : State} {a : Nat} {op : BusOp} {rest : List BusAccess}
    (hp : s.pending = { agent := .host, width := 32, offset := a, op := op } :: rest)
    (ha : a % 4 = 0) (hle : a ≤ 0xFFC) :
    step s = perform { agent := .host, width := 32, offset := a, op := op } s.sense :=
  step_performs hp (BusAccess.refusal?_eq_none.mpr ⟨rfl, rfl, ha, by simp only; omega⟩)

/-- A host write at any offset but CMD's is a window write (R74). -/
theorem step_writes {s : State} {a : Nat} {v : Word} {rest : List BusAccess}
    (hp : s.pending = { agent := .host, width := 32, offset := a, op := .write v } :: rest)
    (ha : a % 4 = 0) (hle : a ≤ 0xFFC) (hc : a ≠ Reg.cmd.offset) :
    step s = .next (memWrite s.sense a v).retire := by
  rw [step_performs_hostAccess hp ha hle]
  exact if_neg hc

section Write
variable (s : State) (a : Nat) (v : Word)

/-- A window write changes at most the register it names (R74). -/
theorem read_memWrite_of_ne (r : Reg) (hr : r.offset ≠ a) : r.read (memWrite s a v) = r.read s := by
  rcases memWrite_cases s a v with ⟨rfl, h⟩ | ⟨rfl, h⟩ | ⟨rfl, h⟩ | h <;> rw [h]
  · cases r with
    | err => exact absurd rfl hr
    | _ => rfl
  · cases r with
    | tgAmp => exact absurd rfl hr
    | _ => rfl
  · cases r with
    | crcExpect => exact absurd rfl hr
    | _ => rfl

/-- The frame of a completed write: every other offset reads as before (R74). -/
theorem memWrite_frame : Frame (fun b => b = a) s (memWrite s a v).retire := by
  obtain ⟨hpending, hreplies, hready, hplan⟩ := memWrite_outside s a v
  exact
    { window := fun b hb => (memRead_retire _ b).trans
        (memRead_eq_of_regs (changed := (· = a)) (fun r => read_memWrite_of_ne s a v r) b hb)
      params := (memWrite_sameResults s a v).params
      pending := congrArg List.tail hpending
      replies := hreplies
      ready := hready
      readyPlan := hplan }

/-- A write leaves WIN and the streams (R74). -/
theorem memWrite_quiet : Quiet s (memWrite s a v).retire :=
  have same := memWrite_sameResults s a v
  { win := congrArg DemodUnit.win same.dm, txOut := same.txOut, symOut := same.symOut }

/-- A write at any offset but those of the three writable registers does nothing (R74). -/
theorem memWrite_of_not_writable (he : a ≠ Reg.err.offset) (ht : a ≠ Reg.tgAmp.offset)
    (hc : a ≠ Reg.crcExpect.offset) : memWrite s a v = s := by
  rcases memWrite_cases s a v with ⟨h, -⟩ | ⟨h, -⟩ | ⟨h, -⟩ | h
  · exact absurd h he
  · exact absurd h ht
  · exact absurd h hc
  · exact h

/-- A mask of the `w` low bits keeps the field of those bits. -/
theorem and_lowMask {w : Nat} {m : Word} (hm : m.toNat = 2 ^ w - 1) :
    v &&& m = (v.setWidth w).setWidth 32 := by
  apply BitVec.eq_of_toNat_eq
  have hlt : v.toNat % 2 ^ w < 2 ^ 32 := (Nat.mod_le _ _).trans_lt v.isLt
  rw [BitVec.toNat_and, hm, Nat.and_two_pow_sub_one_eq_mod, BitVec.toNat_setWidth, BitVec.toNat_setWidth,
    Nat.mod_eq_of_lt hlt]

/-- Write-1-to-clear as ERR reads (R35). -/
theorem clearErr_word (err : BitVec 3) :
    (clearErr err v).setWidth 32 = err.setWidth 32 &&& ~~~(v &&& 7) := by
  rw [and_lowMask v (w := 3) rfl]
  apply BitVec.eq_of_getLsbD_eq
  intro j hj
  by_cases h : j < 3
  · simpa [hj, h] using getLsbD_clearErr err v j
  · simp [BitVec.getLsbD_of_ge _ j (Nat.not_lt.mp h)]

/-- What ERR reads after it is written (R74). -/
theorem memRead_memWrite_err : memRead (memWrite s Reg.err.offset v) Reg.err.offset =
    memRead s Reg.err.offset &&& ~~~(v &&& 7) := by
  rw [memRead_offset, memRead_offset]
  simpa [memWrite] using clearErr_word v s.err.err

/-- What TG_AMP reads after it is written (R74). -/
theorem memRead_memWrite_tgAmp :
    memRead (memWrite s Reg.tgAmp.offset v) Reg.tgAmp.offset = v &&& 0xFFFF := by
  rw [memRead_offset]
  simpa [memWrite] using (and_lowMask v (w := 16) rfl).symm

/-- What CRC_EXPECT reads after it is written (R74). -/
theorem memRead_memWrite_crcExpect :
    memRead (memWrite s Reg.crcExpect.offset v) Reg.crcExpect.offset = v := by
  rw [memRead_offset]
  simp [memWrite]

end Write

/-- Settles O8: the cases of `memWrite` at the three writable registers, and its frame. -/
theorem hostWriteDoesThis : Obligations.HostWriteDoesThis := by
  unfold Obligations.HostWriteDoesThis
  intro s a v rest hp ha hle
  refine ⟨fun hc => (step_performs_hostAccess hp ha hle).trans (if_pos hc),
    fun hc => ⟨_, step_writes hp ha hle hc, { memWrite_quiet s.sense a v with }, ?_, ?_, ?_, ?_⟩⟩
  · rintro rfl
    exact ⟨(memRead_retire _ _).trans (memRead_memWrite_err s.sense v), memWrite_frame s.sense _ v⟩
  · rintro rfl
    exact ⟨(memRead_retire _ _).trans (memRead_memWrite_tgAmp s.sense v), memWrite_frame s.sense _ v⟩
  · rintro rfl
    exact ⟨(memRead_retire _ _).trans (memRead_memWrite_crcExpect s.sense v), memWrite_frame s.sense _ v⟩
  · intro he ht hc
    have hsame := memWrite_of_not_writable s.sense a v he ht hc
    have hframe := memWrite_frame s.sense a v
    rw [hsame] at hframe ⊢
    exact { hframe with window := fun b _ => memRead_retire _ b }

section Read
variable (s : State)

/-- A reserved offset reads 0 (R73). -/
theorem memRead_reserved {a : Nat} (h : ∀ r : Reg, r.offset ≠ a) : memRead s a = 0 := by
  unfold memRead
  split
  · next r hr => exact absurd (Reg.offset_of_ofOffset? hr) (h r)
  · rfl

/-- A narrow field widened to a word has no bit in a mask that leaves the field's bits out (R73). -/
theorem setWidth_and_eq_zero {w : Nat} (x : BitVec w) {m : Word}
    (hm : ∀ j < w, m.getLsbD j = false) : x.setWidth 32 &&& m = 0 := by
  apply BitVec.eq_of_getLsbD_eq
  intro j hj
  by_cases h : j < w
  · simp [hm j h]
  · simp [BitVec.getLsbD_of_ge x j (by omega)]

/-- A flag has no bit in a mask that leaves its bit out (R60, R73). -/
theorem flagAt_and_eq_zero (b : Bool) {n : Nat} {m : Word} (hm : m.getLsbD n = false) :
    flagAt b n &&& m = 0 := by
  apply BitVec.eq_of_getLsbD_eq
  intro j hj
  rw [BitVec.getLsbD_and, getLsbD_flagAt b n j hj]
  by_cases h : j = n
  · simp [h, hm]
  · simp [h]

/-- A word made of parts has no bit in a mask if no part has one. -/
theorem or_and_eq_zero {x y m : Word} (hx : x &&& m = 0) (hy : y &&& m = 0) : (x ||| y) &&& m = 0 := by
  rw [BitVec.and_or_distrib_right, hx, hy]
  exact BitVec.or_zero

/-- The bits of DM_SYM outside its fields read as 0 (R39). -/
theorem dmSym_and_zeroBits (d : DmSym) : d.toWord &&& 0xFFFEFEF8 = 0 :=
  or_and_eq_zero
    (or_and_eq_zero (setWidth_and_eq_zero d.sym (by decide)) (flagAt_and_eq_zero d.valid (by decide)))
    (flagAt_and_eq_zero d.block (by decide))

/-- The bits of GOL_STAT outside its fields read as 0 (R51). -/
theorem golStat_and_zeroBits (g : GolStat) : g.toWord &&& 0xFFFEFEF0 = 0 :=
  or_and_eq_zero
    (or_and_eq_zero (setWidth_and_eq_zero g.nerr (by decide)) (flagAt_and_eq_zero g.uncorr (by decide)))
    (flagAt_and_eq_zero g.op (by decide))

/-- The bits of ASC_STAT outside its fields read as 0 (R57). -/
theorem ascStat_and_zeroBits (a : AscStat) : a.toWord &&& 0xFFFEFFFE = 0 :=
  or_and_eq_zero (flagAt_and_eq_zero a.invalid (by decide)) (flagAt_and_eq_zero a.op (by decide))

/-- The bits of a register outside its fields read as 0 (R35-R57, R73). -/
theorem memRead_and_zeroBits : ∀ p ∈ zeroBits, memRead s p.1 &&& p.2 = 0 := by
  simp only [zeroBits, List.forall_mem_cons]
  exact ⟨setWidth_and_eq_zero s.err.err (by decide), setWidth_and_eq_zero s.tg.amp (by decide),
    dmSym_and_zeroBits s.dm.sym, setWidth_and_eq_zero s.vt.word (by decide),
    setWidth_and_eq_zero s.vt.errs (by decide), setWidth_and_eq_zero s.gol.res (by decide),
    golStat_and_zeroBits s.gol.stat, flagAt_and_eq_zero s.crc.mtch (by decide),
    ascStat_and_zeroBits s.asc.stat, by simp⟩

end Read

/-- Settles O9: a read replies with the register at its offset and touches nothing else. -/
theorem hostReadReturnsThis : Obligations.HostReadReturnsThis := by
  unfold Obligations.HostReadReturnsThis
  intro s a rest hp ha hle
  have hstep : step s = .next (s.sense.reply (memRead s a)).retire := by
    rw [step_performs_hostAccess hp ha hle, ← memRead_sense s a]
    rfl
  refine ⟨⟨_, hstep, rfl, congrArg List.tail hp, by simp, rfl, rfl, rfl⟩, ?_, ?_, ?_, ?_, ?_, ?_,
    memRead_reserved s⟩
  · rintro r rfl
    exact memRead_offset s r
  · rintro p hmem rfl
    exact memRead_and_zeroBits s p hmem
  · rintro k rfl
    rw [show 0x200 + 4 * k.val = (Reg.vtSym k).offset from rfl, memRead_offset]
    exact setWidth_and_eq_zero _ (by decide)
  · rintro rfl
    exact memRead_offset s .id
  · rintro rfl
    exact memRead_offset s .cmd
  · rintro rfl
    rfl

end Sys2Proof.Machine
end

section
/-! PROOF. R110-R114: encoding and decoding are inverse, field by field. -/

namespace Sys2Proof

section Fields
variable {len wid lo pos : Nat}

/-- The number a field holds, unscaled (R114). -/
theorem field_toNat (w : Word) (lo len : Nat) :
    (field w lo len).toNat = w.toNat / 2 ^ lo % 2 ^ len := by
  rw [field, BitVec.extractLsb'_toNat, Nat.shiftRight_eq_div_pow]

/-- The fields of two words laid over each other. -/
@[simp] theorem field_or (x y : Word) (lo len : Nat) :
    field (x ||| y) lo len = field x lo len ||| field y lo len := by
  apply BitVec.eq_of_getLsbD_eq
  intro j hj
  simp [field, hj]

/-- A field reads back the value placed in it. -/
@[simp] theorem field_place_same (v : BitVec len) (h : lo + len ≤ 32) :
    field (place v lo) lo len = v := by
  apply BitVec.eq_of_getLsbD_eq
  intro j hj
  have hbit : lo + j < 32 := by omega
  simp [field, place, hj, hbit]

/-- A field sees nothing of a value placed above it. -/
@[simp] theorem field_place_of_le (v : BitVec wid) (h : lo + len ≤ pos) :
    field (place v pos) lo len = 0 := by
  apply BitVec.eq_of_getLsbD_eq
  intro j hj
  have hbelow : lo + j < pos := by omega
  simp [field, place, hbelow]

/-- A field sees nothing of a value placed below it. -/
@[simp] theorem field_place_of_ge (v : BitVec wid) (h : pos + wid ≤ lo) :
    field (place v pos) lo len = 0 := by
  apply BitVec.eq_of_getLsbD_eq
  intro j hj
  have habove : wid ≤ lo + j - pos := by omega
  simp [field, place, BitVec.getLsbD_of_ge v _ habove]

/-- A field put back in its place is the word with every other bit cleared. -/
theorem place_field (w : Word) (lo len : Nat) :
    place (field w lo len) lo = w &&& place (BitVec.allOnes len) lo := by
  apply BitVec.eq_of_getLsbD_eq
  intro j hj
  by_cases hlo : j < lo
  · simp [place, hlo]
  · have hback : lo + (j - lo) = j := by omega
    simp [field, place, hj, hlo, hback, Bool.and_comm]

end Fields

/-- Every command's word has its opcode byte and no reserved bit (R110, R113). -/
theorem opcodeAndReserved (i : Instr) : Laws.OpcodeAndReserved.Statement i := by
  cases i with
  | nop => exact Laws.OpcodeAndReserved.nop
  | sysReset => exact Laws.OpcodeAndReserved.sysReset
  | tgReset => exact Laws.OpcodeAndReserved.tgReset
  | tgTone sym n => exact Laws.OpcodeAndReserved.tgTone sym n
  | tgSymbol sym => exact Laws.OpcodeAndReserved.tgSymbol sym
  | dmReset => exact Laws.OpcodeAndReserved.dmReset
  | dmPush x => exact Laws.OpcodeAndReserved.dmPush x
  | vtLoad idx sym => exact Laws.OpcodeAndReserved.vtLoad idx sym
  | vtRun => exact Laws.OpcodeAndReserved.vtRun
  | golEnc info => exact Laws.OpcodeAndReserved.golEnc info
  | golDec rx => exact Laws.OpcodeAndReserved.golDec rx
  | ascEnc c0 c1 c2 => exact Laws.OpcodeAndReserved.ascEnc c0 c1 c2
  | ascDec payload => exact Laws.OpcodeAndReserved.ascDec payload
  | crcInit => exact Laws.OpcodeAndReserved.crcInit
  | crcByte byte => exact Laws.OpcodeAndReserved.crcByte byte
  | crcCheck => exact Laws.OpcodeAndReserved.crcCheck

/-- The operand fields of a well-formed command's word are its operands (R114). -/
theorem operands_encode {i : Instr} (h : i.wellFormed = true) : i.opcode.operands (encode i) = i := by
  cases i with
  | tgTone sym n =>
    have hn : n < 65536 := of_decide_eq_true h
    simp [Instr.opcode, Opcode.operands, encode, Instr.operandBits, Nat.mod_eq_of_lt hn]
  | vtLoad idx sym =>
    have hidx : idx < 256 := of_decide_eq_true h
    simp [Instr.opcode, Opcode.operands, encode, Instr.operandBits, Nat.mod_eq_of_lt hidx]
  | _ => simp [Instr.opcode, Opcode.operands, encode, Instr.operandBits]

/-- Settles O1: the word selects the command's opcode, has no reserved bit, and its fields are the operands. -/
theorem decodeReadsBackEncode : Obligations.DecodeReadsBackEncode := by
  unfold Obligations.DecodeReadsBackEncode
  intro i h
  obtain ⟨hop, hrsvd⟩ := opcodeAndReserved i
  exact decode_eq_ok.mpr ⟨i.opcode, hop ▸ Opcode.ofByte?_code i.opcode, hrsvd, operands_encode h⟩

/-- Operands taken from a word fit their fields (R114). -/
theorem operands_wellFormed (w : Word) (op : Opcode) : (op.operands w).wellFormed = true := by
  cases op with
  | tgTone => exact decide_eq_true (field w 16 16).isLt
  | vtLoad => exact decide_eq_true (field w 8 8).isLt
  | _ => rfl

/-- The opcode byte and the operand fields of a format are all bits it does not reserve, so re-encoding the
operands of a word clears the reserved bits and no other (R110, R113). -/
theorem encode_operands {w : Word} {op : Opcode} (h : field w 0 8 = op.code) :
    encode (op.operands w) = w &&& ~~~op.format.rsvdMask := by
  rw [encode, Opcode.operands_opcode, ← h, place_field]
  cases op <;>
    simp only [Opcode.operands, Instr.operandBits, BitVec.ofNat_toNat, BitVec.setWidth_eq, place_field,
      BitVec.ofNat_eq_ofNat, BitVec.or_zero, ← BitVec.and_or_distrib_left] <;>
    rfl

/-- Clearing bits that are 0 changes nothing. -/
theorem and_not_eq_self {w m : Word} (h : w &&& m = 0) : w &&& ~~~m = w := by
  apply BitVec.eq_of_getLsbD_eq
  intro j hj
  have hbit : (w.getLsbD j && m.getLsbD j) = false := by
    rw [← BitVec.getLsbD_and, h]
    exact BitVec.getLsbD_zero
  rw [BitVec.getLsbD_and, BitVec.getLsbD_not]
  cases hw : w.getLsbD j <;> simp_all

/-- Settles O2: re-encoding what a word decodes to clears the reserved bits only, and they are 0. -/
theorem encodeReadsBackDecode : Obligations.EncodeReadsBackDecode := by
  unfold Obligations.EncodeReadsBackDecode
  intro w i h
  obtain ⟨op, hbyte, hrsvd, rfl⟩ := decode_eq_ok.mp h
  exact ⟨operands_wellFormed w op,
    (encode_operands (Opcode.code_of_ofByte? hbyte).symm).trans (and_not_eq_self hrsvd)⟩

/-- Settles O3: the words are computed, and the round trip decodes them (R119). -/
theorem encodingExamplesHold : Obligations.EncodingExamplesHold := by
  unfold Obligations.EncodingExamplesHold
  intro p hp
  have hword : p.1.wellFormed = true ∧ encode p.1 = p.2 := by
    revert p
    decide
  obtain ⟨hwf, henc⟩ := hword
  exact ⟨henc, henc ▸ decodeReadsBackEncode p.1 hwf⟩

/-- A decoded command is what its own opcode takes from the word. -/
theorem operands_of_decode {w : Word} {i : Instr} (h : decode w = .ok i) :
    i.opcode.operands w = i := by
  obtain ⟨op, -, -, rfl⟩ := decode_eq_ok.mp h
  rw [Opcode.operands_opcode]

/-- A field that ends at bit 31 needs no upper cut (R114). -/
theorem topField_toNat (w : Word) {lo len : Nat} (h : lo + len = 32) :
    (field w lo len).toNat = w.toNat / 2 ^ lo := by
  have hlt : w.toNat < 2 ^ lo * 2 ^ len := by
    rw [← pow_add, h]
    exact w.isLt
  rw [field_toNat, Nat.mod_eq_of_lt (Nat.div_lt_of_lt_mul hlt)]

/-- SAMPLE is bits 31:16 as a two's complement number, whose sign is bit 31 (R114). -/
theorem sampleValue_field (w : Word) : Machine.sampleValue (field w 16 16) =
    if w.toNat < 2 ^ 31 then (w.toNat / 2 ^ 16 : Int) else (w.toNat / 2 ^ 16 : Int) - 2 ^ 16 := by
  rw [Machine.sampleValue, BitVec.toInt_eq_toNat_cond, topField_toNat w rfl]
  split <;> split <;> omega

/-- Settles O6: each operand is the `field` its opcode takes, read as a number. -/
theorem operandsAreTheFields : Obligations.OperandsAreTheFields := by
  unfold Obligations.OperandsAreTheFields
  intro w
  refine ⟨?_, ?_, ?_, ?_, ?_, ?_, ?_, ?_, ?_⟩
  · intro sym n h
    cases operands_of_decode h
    exact ⟨field_toNat w 8 3, field_toNat w 16 16⟩
  · intro sym h
    cases operands_of_decode h
    exact field_toNat w 8 3
  · intro x h
    cases operands_of_decode h
    exact sampleValue_field w
  · intro idx sym h
    cases operands_of_decode h
    exact ⟨field_toNat w 8 8, field_toNat w 16 3⟩
  · intro info h
    cases operands_of_decode h
    exact field_toNat w 8 12
  · intro rx h
    cases operands_of_decode h
    exact topField_toNat w rfl
  · intro c0 c1 c2 h
    cases operands_of_decode h
    exact ⟨field_toNat w 8 8, field_toNat w 16 8, topField_toNat w rfl⟩
  · intro payload h
    cases operands_of_decode h
    exact field_toNat w 8 21
  · intro byte h
    cases operands_of_decode h
    exact field_toNat w 8 8

end Sys2Proof
end

section
/-! PROOF. R112, R113, R331: which words are rejected, and what a rejected command does. -/

namespace Sys2Proof.Machine

section CommandError
variable (s : State) (e : CmdErr) (v : Word)

/-- A command error is read in ERR as one more bit (R331). -/
theorem memRead_raiseCmdError_err : memRead (s.raiseCmdError e v).retire Reg.err.offset =
    memRead s Reg.err.offset ||| (errMask e).setWidth 32 := by
  rw [memRead_retire, memRead_offset, memRead_offset]
  simp [setErr, BitVec.setWidth_or]

/-- A command error changes ERR and ERR_CMD only (R331). -/
theorem raiseCmdError_frame :
    Frame (fun a => a = Reg.err.offset ∨ a = Reg.errCmd.offset) s (s.raiseCmdError e v).retire where
  window a ha := by
    rw [memRead_retire]
    refine memRead_eq_of_regs (changed := fun b => b = Reg.err.offset ∨ b = Reg.errCmd.offset)
      (fun r hr => ?_) a ha
    cases r with
    | err => exact absurd (.inl rfl) hr
    | errCmd => exact absurd (.inr rfl) hr
    | _ => rfl
  params := rfl
  pending := rfl
  replies := rfl
  ready := rfl
  readyPlan := rfl

/-- A command error leaves WIN and the streams (R331). -/
theorem raiseCmdError_quiet : Quiet s (s.raiseCmdError e v).retire := ⟨rfl, rfl, rfl⟩

end CommandError

/-- A word that does not decode ends with its command error and does nothing else (R75, R331). -/
theorem execute_rejected {w : Word} {e : CmdErr} (h : decode w = .error e) (s : State) :
    ∃ t, execute w s = .next t ∧
      memRead t Reg.err.offset = memRead s Reg.err.offset ||| (errMask e).setWidth 32 ∧
      Frame (fun a => a = Reg.err.offset ∨ a = Reg.errCmd.offset) s t ∧ Quiet s t :=
  ⟨(s.raiseCmdError e w).retire, by simp only [execute, h], memRead_raiseCmdError_err s e w,
    raiseCmdError_frame s e w, raiseCmdError_quiet s e w⟩

/-- The opcode byte as a number (R110). -/
theorem opcodeByte_toNat (w : Word) : (field w 0 8).toNat = w.toNat % 256 := by
  simp [field_toNat]

/-- The bytes no opcode has are those of the listed ranges (R111, R112). -/
theorem ofByte?_eq_none_iff_illegalByte (b : Byte) :
    Opcode.ofByte? b = none ↔ illegalByte b.toNat = true := by
  rw [Opcode.ofByte?_eq_none]
  constructor
  · intro h
    have hcodes : ∀ op ∈ Opcode.all, op.code.toNat ≠ b.toNat :=
      fun op _ heq => h op (BitVec.eq_of_toNat_eq heq)
    simp only [Opcode.all, Opcode.code, List.forall_mem_cons, BitVec.ofNat_eq_ofNat,
      BitVec.toNat_ofNat] at hcodes
    have hb := b.isLt
    simp only [illegalByte, Bool.or_eq_true, Bool.and_eq_true, decide_eq_true_eq]
    omega
  · rintro h op rfl
    have hlegal : illegalByte op.code.toNat = false := by cases op <;> rfl
    exact absurd h (by simp [hlegal])

/-- The decoder rejects with ILLEGAL_OP exactly the listed opcode bytes (R112). -/
theorem illegalByte_iff_decode (w : Word) :
    illegalByte (w.toNat % 256) = true ↔ decode w = .error .illegalOp := by
  rw [decode_eq_illegalOp, ofByte?_eq_none_iff_illegalByte, opcodeByte_toNat]

/-- Settles O4: the listed bytes are counted, and a word with one is rejected by the decoder. -/
theorem illegalOpcodesRaiseIllegalOp : Obligations.IllegalOpcodesRaiseIllegalOp := by
  unfold Obligations.IllegalOpcodesRaiseIllegalOp
  exact ⟨by decide +kernel, fun w => ⟨illegalByte_iff_decode w,
    fun h => execute_rejected ((illegalByte_iff_decode w).mp h)⟩⟩

/-- The list of reserved bits is the opcode map with the mask of each opcode's format (R111, R113). -/
theorem reservedMasks_eq :
    reservedMasks = Opcode.all.map fun op => (op.code.toNat, op.format.rsvdMask) := rfl

/-- The decoder rejects a word of a defined opcode with RSVD_NONZERO iff a reserved bit is 1 (R113). -/
theorem decode_eq_rsvdNonzero_of_code {w : Word} {op : Opcode} (h : w.toNat % 256 = op.code.toNat) :
    decode w = .error .rsvdNonzero ↔ w &&& op.format.rsvdMask ≠ 0 := by
  have hbyte : field w 0 8 = op.code := BitVec.eq_of_toNat_eq ((opcodeByte_toNat w).trans h)
  simp [decode_eq_rsvdNonzero, hbyte]

/-- Settles O5: each row of the list is an opcode with its format's reserved bits, which the decoder checks. -/
theorem reservedBitsRaiseRsvdNonzero : Obligations.ReservedBitsRaiseRsvdNonzero := by
  unfold Obligations.ReservedBitsRaiseRsvdNonzero
  rw [reservedMasks_eq, List.forall_mem_map]
  intro op _ w h
  have hreject := decode_eq_rsvdNonzero_of_code h
  exact ⟨hreject, fun hbit => execute_rejected (hreject.mpr hbit)⟩

end Sys2Proof.Machine
end

section
/-! PROOF. R115: a 24-bit ALE word is its preamble below its payload. -/

namespace Sys2Proof.Machine

/-- The preamble is the low three bits (R115). -/
theorem wordPreamble_toNat (w : BitVec 24) : (wordPreamble w).toNat = w.toNat % 2 ^ 3 := by
  simp [wordPreamble, BitVec.extractLsb'_toNat]

/-- The payload is all bits above them (R115). -/
theorem wordPayload_toNat (w : BitVec 24) : (wordPayload w).toNat = w.toNat / 2 ^ 3 := by
  have hw := w.isLt
  rw [wordPayload, BitVec.extractLsb'_toNat, Nat.shiftRight_eq_div_pow, Nat.mod_eq_of_lt (by omega)]

/-- `preamble | (payload << 3)` as a number (R115). -/
theorem aleWord_toNat (p : BitVec 3) (q : BitVec 21) :
    (aleWord p q).toNat = p.toNat + q.toNat * 2 ^ 3 := by
  rw [aleWord, BitVec.toNat_append, ← Nat.shiftLeft_add_eq_or_of_lt p.isLt, Nat.shiftLeft_eq, add_comm]

/-- Settles O49: on numbers, splitting is division by 8 with remainder. -/
theorem aleWordSplitsAndJoins : Obligations.AleWordSplitsAndJoins := by
  unfold Obligations.AleWordSplitsAndJoins
  refine ⟨fun w => ?_, fun p q => ?_⟩
  · have hsum : w.toNat = (wordPreamble w).toNat + (wordPayload w).toNat * 2 ^ 3 := by
      rw [wordPreamble_toNat, wordPayload_toNat]
      omega
    exact ⟨BitVec.eq_of_toNat_eq ((aleWord_toNat _ _).trans hsum.symm), hsum⟩
  · have hp := p.isLt
    constructor <;> apply BitVec.eq_of_toNat_eq
    · rw [wordPreamble_toNat, aleWord_toNat]
      omega
    · rw [wordPayload_toNat, aleWord_toNat]
      omega

end Sys2Proof.Machine
end

section
/-! PROOF. R118, R295: running the accesses of CRC_VALIDATE. -/

namespace Sys2Proof.Machine

/-- A run that starts with a step (R7). -/
theorem run_succ {s t : State} (h : step s = .next t) (k : Nat) :
    Sys2Proof.core.run (k + 1) s = Sys2Proof.core.run k t := by
  have hcore : Sys2Proof.core.step s = .next t := h
  simp only [Host.Core.run, hcore]

/-- The access of a command line runs its command (R75, R117). -/
theorem step_cmdLine {s : State} {i : Instr} {rest : List BusAccess}
    (hp : s.pending = cmdLine i :: rest) (hi : i.wellFormed = true) : step s = exec i s.sense :=
  stepRunsTheDecodedCommand s _ i rest hp (decodeReadsBackEncode i hi)

/-- The state after an access that is completed without a reply and leaves the CRC engine as given. -/
def State.afterCrc (s : State) (u : CrcUnit) : State := (s.sense.setCrc u).retire

section AfterCrc
variable (s : State) (u : CrcUnit)

@[simp] theorem State.afterCrc_pending : (s.afterCrc u).pending = s.pending.tail := rfl
@[simp] theorem State.afterCrc_replies : (s.afterCrc u).replies = s.replies := rfl
@[simp] theorem State.afterCrc_crc : (s.afterCrc u).crc = u := rfl

end AfterCrc

section CrcAccesses
variable {s : State} {rest : List BusAccess}

/-- The access of `CRC_INIT` (R292). -/
theorem step_crcInit (hp : s.pending = cmdLine .crcInit :: rest) :
    step s = .next (s.afterCrc { s.crc with state := 0xFFFFFFFF, mtch := false }) :=
  step_cmdLine hp rfl

/-- The access of `CRC_BYTE` (R293). -/
theorem step_crcByte {b : Byte} (hp : s.pending = cmdLine (.crcByte b) :: rest) :
    step s = .next (s.afterCrc { s.crc with state := crcStep s.crc.state b, mtch := false }) :=
  step_cmdLine hp rfl

/-- The access of `CRC_CHECK` (R294). -/
theorem step_crcCheck (hp : s.pending = cmdLine .crcCheck :: rest) :
    step s = .next (s.afterCrc { s.crc with mtch := s.crc.value == s.crc.expect }) :=
  step_cmdLine hp rfl

/-- A write of CRC_EXPECT (R54, R74). -/
theorem step_wr_crcExpect {v : Word} (hp : s.pending = wr .crcExpect v :: rest) :
    step s = .next (s.afterCrc { s.crc with expect := v }) :=
  step_writes hp (by decide) (by decide) (by decide)

/-- A read of CRC_STAT (R55, R73). -/
theorem step_rd_crcStat (hp : s.pending = rd .crcStat :: rest) :
    step s = .next (s.sense.reply (crcStatWord s.crc.mtch)).retire :=
  step_performs_hostAccess hp (by decide) (by decide)

/-- A CRC_BYTE line for each byte of a string feeds the string to the engine (R291, R293). -/
theorem run_crcBytes (bytes : List Byte)
    (hp : s.pending = bytes.map (fun b => cmdLine (.crcByte b)) ++ rest) :
    ∃ t, (∀ k, Sys2Proof.core.run (bytes.length + k) s = Sys2Proof.core.run k t) ∧
      t.pending = rest ∧ t.replies = s.replies ∧ t.crc.state = crcFeed s.crc.state bytes := by
  induction bytes generalizing s with
  | nil => exact ⟨s, fun k => by rw [List.length_nil, Nat.zero_add], hp, rfl, rfl⟩
  | cons b bytes ih =>
    have hstep := step_crcByte hp
    obtain ⟨t, hrun, hpending, hreplies, hstate⟩ := ih
      (s := s.afterCrc { s.crc with state := crcStep s.crc.state b, mtch := false })
      (congrArg List.tail hp)
    refine ⟨t, fun k => ?_, hpending, hreplies, hstate⟩
    rw [List.length_cons, Nat.add_right_comm, run_succ hstep, hrun]

/-- CRC_STAT reads as the answer of a comparison (R55). -/
theorem crcStatWord_beq (x y : Word) : crcStatWord (x == y) = if x = y then 1 else 0 := by
  by_cases h : x = y
  · simp [h, crcStatWord, flagAt]
  · simp [h, crcStatWord, flagAt, beq_eq_false_iff_ne.mpr h]

/-- Writing CRC_EXPECT, checking and reading CRC_STAT replies whether the value written is the CRC of what
the engine was fed (R294, R295). -/
theorem run_crcCompare {v : Word}
    (hp : s.pending = wr .crcExpect v :: cmdLine .crcCheck :: rd .crcStat :: rest) :
    ∃ t, Sys2Proof.core.run 3 s = .next t ∧ t.pending = rest ∧
      t.replies = s.replies ++ [if s.crc.value = v then 1 else 0] := by
  have hwrite := step_wr_crcExpect hp
  have hcheck := step_crcCheck (s := s.afterCrc { s.crc with expect := v }) (congrArg List.tail hp)
  have hread := step_rd_crcStat
    (s := (s.afterCrc { s.crc with expect := v }).afterCrc
      { s.crc with expect := v, mtch := s.crc.value == v })
    (congrArg (·.tail.tail) hp)
  refine ⟨_, (run_succ hwrite 2).trans ((run_succ hcheck 1).trans (run_succ hread 0)),
    congrArg (·.tail.tail.tail) hp, ?_⟩
  simp [crcStatWord_beq]

end CrcAccesses

/-- Settles O53: CRC_INIT forgets the engine's state, the bytes are fed, and the comparison is read. -/
theorem crcValidateAnswersTheComparison : Obligations.CrcValidateAnswersTheComparison := by
  unfold Obligations.CrcValidateAnswersTheComparison
  intro s body t0 t1 t2 t3 rest hp
  have hinit := step_crcInit (s := s) (rest := s.pending.tail) (by simp [hp, crcValidate])
  obtain ⟨u, hfeed, hpending, hreplies, hstate⟩ :=
    run_crcBytes (s := s.afterCrc { s.crc with state := 0xFFFFFFFF, mtch := false }) body
      (rest := wr .crcExpect (ofWireBytes t0 t1 t2 t3) :: cmdLine .crcCheck :: rd .crcStat :: rest)
      (by simp [hp, crcValidate])
  obtain ⟨t, hrun, hrest, hanswer⟩ := run_crcCompare hpending
  have hvalue : u.crc.value = crc32 body := by
    rw [CrcUnit.value, hstate, crc32, State.afterCrc_crc]
  rw [hvalue, hreplies] at hanswer
  exact ⟨t, (run_succ hinit _).trans ((hfeed 3).trans hrun), hrest, hanswer⟩

end Sys2Proof.Machine
end

section
/-! PROOF. R144, R145: the phases and the samples of a run of the tone generator. -/

namespace Sys2Proof.Machine

section Phase
variable (ph : Word) (sym : BitVec 3) (k : Nat)

/-- The phase of a tone k increments on from `ph` (R145). -/
def phaseAfter : Word :=
  ph + BitVec.ofNat 32 (k * ((6 + sym.toNat) * 2 ^ 26))

@[simp] theorem phaseAfter_zero : phaseAfter ph sym 0 = ph := by
  simp [phaseAfter]

/-- The first of k + 1 increments is the tone's own (R141). -/
theorem phaseAfter_succ : phaseAfter ph sym (k + 1) = phaseAfter (ph + toneInc sym) sym k := by
  simp only [phaseAfter, toneInc]
  rw [add_assoc, ← BitVec.ofNat_add, Nat.succ_mul, Nat.add_comm]

/-- R145's formula, on numbers. -/
theorem phaseAfter_toNat :
    (phaseAfter ph sym k).toNat = (ph.toNat + k * (6 + sym.toNat) * 2 ^ 26) % 2 ^ 32 := by
  rw [phaseAfter, BitVec.toNat_add, BitVec.toNat_ofNat, Nat.add_mod_mod, Nat.mul_assoc]

/-- 64 increments are a multiple of 2^32, so whole symbols return to the phase (R145). -/
theorem phaseAfter_symbols : phaseAfter ph sym (64 * k) = ph := by
  apply BitVec.eq_of_toNat_eq
  have hph := ph.isLt
  rw [phaseAfter_toNat, show ph.toNat + 64 * k * (6 + sym.toNat) * 2 ^ 26 =
    ph.toNat + 2 ^ 32 * (k * (6 + sym.toNat)) by ring, Nat.add_mul_mod_self_left, Nat.mod_eq_of_lt hph]

/-- From phase 0 the ROM index after k increments (R146). -/
theorem phaseIndex_phaseAfter_zero :
    (phaseIndex (phaseAfter 0 sym k)).toNat = 4 * (6 + sym.toNat) * k % 256 := by
  rw [phaseIndex, BitVec.extractLsb'_toNat, phaseAfter_toNat, Nat.shiftRight_eq_div_pow,
    Nat.mul_assoc 4, Nat.mul_comm _ k]
  generalize k * (6 + sym.toNat) = m
  simp only [BitVec.ofNat_eq_ofNat, BitVec.toNat_ofNat]
  omega

/-- Increments leave the interpolation fraction (R61). -/
theorem phaseFrac_phaseAfter : phaseFrac (phaseAfter ph sym k) = phaseFrac ph := by
  induction k generalizing ph with
  | zero => rw [phaseAfter_zero]
  | succ k ih => rw [phaseAfter_succ, ih, phaseFrac_add_toneInc]

end Phase

section Run
variable (sym : BitVec 3) (n : Nat) (u : ToneUnit)

/-- A run of n samples advances its accumulator by n increments (R145). -/
theorem samples_phase_self : (ToneUnit.samples sym n u).2.phase[toneIx sym] =
    phaseAfter u.phase[toneIx sym] sym n := by
  induction n generalizing u with
  | zero => simp
  | succ n ih => rw [samples_succ, ih, sample_phase_self, phaseAfter_succ]

/-- A run of samples leaves every other accumulator (R144). -/
theorem samples_phase_other (i : Fin 8) (h : i ≠ toneIx sym) :
    (ToneUnit.samples sym n u).2.phase[i] = u.phase[i] := by
  induction n generalizing u with
  | zero => rfl
  | succ n ih => rw [samples_succ, ih, sample_phase_other u sym i h]

/-- Sample j of a run is that of the phase j increments on (R142, R144). -/
theorem samples_fst : (ToneUnit.samples sym n u).1 =
    (List.range n).map fun j => toneSample u.amp (phaseAfter u.phase[toneIx sym] sym j) := by
  induction n generalizing u with
  | zero => rfl
  | succ n ih =>
    rw [samples_succ, ih, List.range_succ_eq_map, List.map_cons, List.map_map, sample_phase_self,
      sample_amp, phaseAfter_zero]
    simp only [Function.comp_def, Nat.succ_eq_add_one, phaseAfter_succ]

/-- A run of whole symbols leaves every accumulator (R145). -/
theorem samples_symbols_phase (i : Fin 8) :
    (ToneUnit.samples sym (64 * n) u).2.phase[i] = u.phase[i] := by
  by_cases hi : i = toneIx sym
  · subst hi
    rw [samples_phase_self, phaseAfter_symbols]
  · exact samples_phase_other sym _ u i hi

end Run

/-- Settles O20: the accumulator is `phaseAfter` of its start. -/
theorem phaseAfterARun : Obligations.PhaseAfterARun := by
  unfold Obligations.PhaseAfterARun
  intro sym u k
  exact ⟨by rw [samples_phase_self, phaseAfter_toNat], samples_symbols_phase sym k u (toneIx sym)⟩

end Sys2Proof.Machine
end

section
/-! PROOF. R142, R146: the value of a sample. -/

namespace Sys2Proof.Machine

section Sample
variable (amp : BitVec 16) (ph : Word)

/-- The interpolated ROM value at a phase, before scaling (R142). -/
def romValue : Int :=
  sineRom (phaseIndex ph) +
    (sineRom (phaseIndex ph + 1) - sineRom (phaseIndex ph)) * (phaseFrac ph).toNat / 2 ^ 24

/-- A sample as a number: the clamp keeps the scaled value in 16 bits (R142). -/
theorem toneSample_toInt : (toneSample amp ph).toInt =
    clamp ((romValue ph * amp.toNat + 2 ^ 14) / 2 ^ 15) (-32768) 32767 := by
  obtain ⟨hlo, hhi⟩ :=
    clamp_bounds ((romValue ph * amp.toNat + 2 ^ 14) / 2 ^ 15) (-32768) 32767 (by decide)
  exact BitVec.toInt_ofInt_eq_self (by decide) hlo (Int.lt_of_le_sub_one hhi)

/-- At fraction 0 the value is the ROM entry itself (R142). -/
theorem romValue_of_frac_zero (h : phaseFrac ph = 0) : romValue ph = sineRom (phaseIndex ph) := by
  simp [romValue, h]

/-- The ROM's entries are of 16 bits (R140). -/
theorem sineRom_bounds (i : BitVec 8) : -32768 ≤ sineRom i ∧ sineRom i ≤ 32767 := by
  have hall : ∀ v ∈ sineTable, -32768 ≤ v ∧ v ≤ 32767 := by decide +kernel
  have hlen : i.toNat < sineTable.length := i.isLt.trans_eq (by decide +kernel)
  rw [sineRom, List.getD_eq_getElem _ _ hlen]
  exact hall _ (List.getElem_mem hlen)

/-- Floor interpolation from `a` to `b` by a fraction below 1 stays between them. -/
theorem floor_interpolation_between (a b : Int) {f d : Nat} (hf : f < d) :
    min a b ≤ a + (b - a) * f / d ∧ a + (b - a) * f / d ≤ max a b := by
  have hd : (0 : Int) < d := by omega
  have hfd : (f : Int) ≤ d := by omega
  rcases le_total a b with hab | hab
  · have hlo : 0 ≤ (b - a) * f / d := Int.ediv_nonneg (mul_nonneg (by omega) (by omega)) hd.le
    have hhi : (b - a) * f / d ≤ b - a :=
      Int.ediv_le_of_le_mul hd (mul_le_mul_of_nonneg_left hfd (by omega))
    omega
  · have hlo : b - a ≤ (b - a) * f / d :=
      (Int.le_ediv_iff_mul_le hd).mpr (mul_le_mul_of_nonpos_left hfd (by omega))
    have hhi : (b - a) * f / d ≤ 0 :=
      Int.ediv_nonpos_of_nonpos_of_neg (mul_nonpos_of_nonpos_of_nonneg (by omega) (by omega)) hd
    omega

/-- The interpolated value lies between its two ROM entries (R142). -/
theorem romValue_between :
    min (sineRom (phaseIndex ph)) (sineRom (phaseIndex ph + 1)) ≤ romValue ph ∧
    romValue ph ≤ max (sineRom (phaseIndex ph)) (sineRom (phaseIndex ph + 1)) :=
  floor_interpolation_between _ _ (phaseFrac ph).isLt

/-- At amplitude 1.0 neither scaling nor clamp changes the interpolated value (R142). -/
theorem toneSample_full : (toneSample 0x8000 ph).toInt = romValue ph := by
  have hscale : (romValue ph * (0x8000#16).toNat + 2 ^ 14) / 2 ^ 15 = romValue ph := by
    rw [show ((0x8000#16).toNat : Int) = 2 ^ 15 from rfl]
    omega
  obtain ⟨hlo, hhi⟩ := romValue_between ph
  have ha := sineRom_bounds (phaseIndex ph)
  have hb := sineRom_bounds (phaseIndex ph + 1)
  rw [toneSample_toInt, BitVec.ofNat_eq_ofNat, hscale, clamp]
  omega

end Sample

/-- Settles O22: at amplitude 1.0 a sample is the interpolated value. -/
theorem interpolationStaysBetweenEntries : Obligations.InterpolationStaysBetweenEntries := by
  unfold Obligations.InterpolationStaysBetweenEntries
  intro ph
  obtain ⟨hlo, hhi⟩ := romValue_between ph
  rw [toneSample_full]
  exact ⟨hlo, hhi, by rw [toneSample_toInt]; simp [clamp]⟩

/-- Settles O21: from phase 0 every sample is a scaled ROM entry, four entries an increment. -/
theorem toneClosedForm : Obligations.ToneClosedForm := by
  unfold Obligations.ToneClosedForm
  intro sym u n j hph hj
  have hfrac : phaseFrac (phaseAfter 0 sym j) = 0 := phaseFrac_phaseAfter 0 sym j
  have hsample : (toneSample u.amp (phaseAfter 0 sym j)).toInt = clamp
      ((sineTable.getD (4 * (6 + sym.toNat) * j % 256) 0 * u.amp.toNat + 2 ^ 14) / 2 ^ 15)
      (-32768) 32767 := by
    rw [toneSample_toInt, romValue_of_frac_zero _ hfrac, sineRom, phaseIndex_phaseAfter_zero]
  refine ⟨?_, by ring⟩
  rw [samples_fst, hph, List.map_map, List.getElem?_map, List.getElem?_range hj, Option.map_some,
    Function.comp_apply, hsample, clamp]

end Sys2Proof.Machine
end

section
/-! PROOF. R143, R144, R147: what the commands of the tone generator change. -/

namespace Sys2Proof.Machine

section Frames
variable {changed : Nat → Prop} {s t : State}

/-- A tone generator with the same TG_AMP changes no more of the window than the phases that differ. -/
theorem setTg_frame {u : ToneUnit} (hamp : u.amp = s.tg.amp)
    (hphase : ∀ i : Fin 8, ¬ changed (Reg.tgPhase i).offset → u.phase[i] = s.tg.phase[i]) :
    Frame changed s (s.setTg u).retire where
  window a ha := by
    rw [memRead_retire]
    refine memRead_eq_of_regs (fun r hr => ?_) a ha
    cases r with
    | tgAmp => simp [hamp]
    | tgPhase i => exact hphase i hr
    | _ => rfl
  params := rfl
  pending := rfl
  replies := rfl
  ready := rfl
  readyPlan := rfl

/-- TX_OUT is no register of the window (R59). -/
theorem Frame.emitTx (h : Frame changed s t.retire) (xs : List Sample) :
    Frame changed s (t.emitTx xs).retire :=
  { h with
    window := fun a ha => by
      rw [memRead_retire, memRead_emitTx, ← memRead_retire]
      exact h.window a ha }

end Frames

/-- Settles O18: the accumulators are the only registers that TG_RESET replaces. -/
theorem tgResetClearsThePhases : Obligations.TgResetClearsThePhases := by
  unfold Obligations.TgResetClearsThePhases
  intro s
  refine ⟨_, rfl, fun i => ?_, setTg_frame rfl fun i hi => absurd ⟨i, rfl⟩ hi, ⟨rfl, rfl, rfl⟩⟩
  exact (memRead_offset _ (.tgPhase i)).trans (by simp)

/-- A tone's accumulator as the host reads it (R71). -/
theorem memRead_tonePhase (s : State) (sym : BitVec 3) :
    memRead s (0x020 + 4 * sym.toNat) = s.tg.phase[toneIx sym] :=
  memRead_offset s (.tgPhase (toneIx sym))

section Play
variable {s : State} (sym : BitVec 3) {n : Nat} (go : n = 0 ∨ s.ready.tx = true)
include go

/-- A tone of no sample, or whose consumer is ready, is played (R144, R366). -/
theorem playTone_played : s.playTone sym n =
    ((s.setTg (ToneUnit.samples sym n s.tg).2).emitTx (ToneUnit.samples sym n s.tg).1).retire :=
  if_pos go

/-- A tone that is played appends its samples to TX_OUT (R144). -/
theorem playTone_txOut : (s.playTone sym n).txOut = s.txOut ++ (ToneUnit.samples sym n s.tg).1 := by
  rw [playTone_played sym go]
  rfl

/-- A tone that is played leaves the demodulator and SYM_OUT (R144). -/
theorem playTone_dm_symOut : (s.playTone sym n).dm = s.dm ∧ (s.playTone sym n).symOut = s.symOut := by
  rw [playTone_played sym go]
  exact ⟨rfl, rfl⟩

/-- A tone that is played leaves the tone generator as its run of samples does (R144). -/
theorem playTone_tg : (s.playTone sym n).tg = (ToneUnit.samples sym n s.tg).2 := by
  rw [playTone_played sym go]
  rfl

/-- A tone that is played changes no more of the window than the phases its run changes (R144). -/
theorem playTone_frame {changed : Nat → Prop}
    (hphase : ∀ i : Fin 8, ¬ changed (Reg.tgPhase i).offset →
      (ToneUnit.samples sym n s.tg).2.phase[i] = s.tg.phase[i]) :
    Frame changed s (s.playTone sym n) := by
  rw [playTone_played sym go]
  exact (setTg_frame (samples_amp sym n s.tg) hphase).emitTx _

end Play

/-- Settles O19: the run's samples and its phase by `phaseAfter`, and the other accumulators are left. -/
theorem tgToneEmitsSamples : Obligations.TgToneEmitsSamples := by
  unfold Obligations.TgToneEmitsSamples
  intro sym n s go
  obtain ⟨hdm, hsym⟩ := playTone_dm_symOut sym go
  refine ⟨s.playTone sym n, rfl, ?_, ?_, ?_, congrArg DemodUnit.win hdm, hsym⟩
  · rw [playTone_txOut sym go, samples_fst, memRead_tonePhase]
    rfl
  · rw [memRead_tonePhase, memRead_tonePhase, playTone_tg sym go, samples_phase_self]
    rfl
  · exact playTone_frame sym go fun i hi =>
      samples_phase_other sym n s.tg i fun h => hi (by rw [h]; rfl)

/-- Settles O23: both commands play 64 samples, one symbol, after which every phase is back. -/
theorem tgSymbolIsTgTone64 : Obligations.TgSymbolIsTgTone64 := by
  unfold Obligations.TgSymbolIsTgTone64
  intro sym s ready
  have go : 64 = 0 ∨ s.ready.tx = true := .inr ready
  obtain ⟨hdm, hsym⟩ := playTone_dm_symOut sym go
  exact ⟨s.playTone sym 64, _, rfl, rfl, playTone_txOut sym go, samples_length sym 64 s.tg,
    playTone_frame sym go fun i _ => samples_symbols_phase sym 1 s.tg i,
    congrArg DemodUnit.win hdm, hsym⟩

end Sys2Proof.Machine
end

section
/-! PROOF. R170, R174, R176, R179: the twiddle tables, the DFT sums and the raw magnitude. -/

namespace Sys2Proof.Machine

/-- COS64 is every fourth entry of the ROM as listed, 64 entries on (R170). -/
theorem cos64_eq_getD (m : Nat) : cos64 m = sineTable.getD ((4 * m + 64) % 256) 0 := rfl

/-- SIN64 is every fourth entry of the ROM as listed (R170). -/
theorem sin64_eq_getD (m : Nat) : sin64 m = sineTable.getD (4 * m % 256) 0 := rfl

/-- The cosine of an angle's negative is the angle's (R140, R170). -/
theorem cos64_neg : ∀ m < 64, cos64 ((64 - m) % 64) = cos64 m := by
  decide +kernel

/-- The sine of an angle's negative is the negative of the angle's (R140, R170). -/
theorem sin64_neg : ∀ m < 64, sin64 ((64 - m) % 64) = -sin64 m := by
  decide +kernel

section Dft
variable (w : Vector Sample 64) (k : Nat)

/-- The real part as a sum over the window (R174). -/
theorem dftRe_eq_sum : dftRe w k = ∑ n : Fin 64, w[n].toInt * cos64 (k * n.val % 64) :=
  (Fin.sum_univ_def _).symm

/-- The imaginary part as a sum over the window (R174). -/
theorem dftIm_eq_neg_sum : dftIm w k = -∑ n : Fin 64, w[n].toInt * sin64 (k * n.val % 64) :=
  congrArg Neg.neg (Fin.sum_univ_def _).symm

/-- The raw magnitude with the library's square root (R176). -/
theorem rawMag_eq_sqrt : rawMag w k = Nat.sqrt (dftRe w k ^ 2 + dftIm w k ^ 2).toNat / 2 ^ 7 := by
  rw [rawMag, isqrt_eq_sqrt]

variable {k}

/-- The angles of the mirror bin are the negatives of the bin's (R179). -/
theorem mirror_angle (hk : k ≤ 64) (n : Nat) : (64 - k) * n % 64 = (64 - k * n % 64) % 64 := by
  have hsum : (64 - k) * n + k * n = 64 * n := by
    rw [← Nat.add_mul, Nat.sub_add_cancel hk]
  omega

/-- Mirror bins have equal real and opposite imaginary parts (R179 b). -/
theorem dft_mirror (hk : k ≤ 64) : dftRe w (64 - k) = dftRe w k ∧ dftIm w (64 - k) = -dftIm w k := by
  have hlt (n : Fin 64) : k * n.val % 64 < 64 := Nat.mod_lt _ (by decide)
  simp only [dftRe_eq_sum, dftIm_eq_neg_sum, mirror_angle hk, cos64_neg _ (hlt _), sin64_neg _ (hlt _),
    mul_neg, Finset.sum_neg_distrib, and_self]

/-- Bin 0 is the sum of the samples, scaled by the twiddle 32767 (R179 c). -/
theorem dft_binZero : dftRe w 0 = 32767 * ∑ n : Fin 64, w[n].toInt ∧ dftIm w 0 = 0 := by
  have hcos : cos64 0 = 32767 := by decide +kernel
  have hsin : sin64 0 = 0 := by decide +kernel
  constructor
  · simp [dftRe_eq_sum, hcos, Finset.mul_sum, mul_comm]
  · simp [dftIm_eq_neg_sum, hsin]

end Dft

/-- Settles O28: the model's sums over lists are the sums over the window, its twiddles the listed entries,
and its search the square root. -/
theorem rawMagnitudeIsTheDft : Obligations.RawMagnitudeIsTheDft := by
  unfold Obligations.RawMagnitudeIsTheDft
  intro w k
  simp only [rawMag_eq_sqrt, dftRe_eq_sum, dftIm_eq_neg_sum, cos64_eq_getD, sin64_eq_getD]

/-- Settles O31: the square forgets the sign of the mirror bin's imaginary part, and the square root of bin
0's square is exact. -/
theorem mirrorBinsAndBinZero : Obligations.MirrorBinsAndBinZero := by
  unfold Obligations.MirrorBinsAndBinZero
  intro w
  constructor
  · intro k _ hk
    obtain ⟨hre, him⟩ := dft_mirror w (k := k) (by omega)
    rw [rawMag, rawMag, hre, him, neg_sq]
  · obtain ⟨hre, him⟩ := dft_binZero w
    generalize ∑ n : Fin 64, w[n].toInt = total at hre ⊢
    have hsquare : (dftRe w 0 ^ 2 + dftIm w 0 ^ 2).toNat = (32767 * total.natAbs) ^ 2 := by
      rw [hre, him, zero_pow two_ne_zero, add_zero, ← Int.natAbs_sq, Int.natAbs_mul]
      rfl
    rw [rawMag_eq_sqrt, hsquare, Nat.sqrt_eq']
    rfl

end Sys2Proof.Machine
end

section
/-! PROOF. R175, R177: no number of the estimator leaves its width. -/

namespace Sys2Proof.Machine

/-- A 16-bit sample is at most 2^15 in absolute value (R8, R175). -/
theorem abs_sampleValue_le (x : Sample) : |sampleValue x| ≤ 2 ^ 15 :=
  abs_le.mpr ⟨x.le_toInt, x.toInt_lt.le⟩

/-- A ROM entry is at most 32767 in absolute value (R140, R175). -/
theorem abs_sineRom_le : ∀ i : BitVec 8, |sineRom i| ≤ 32767 := by
  decide +kernel

/-- A sum over the window of samples times entries of size at most 32767 is below 2^36 (R175). -/
theorem abs_window_sum_lt (w : Vector Sample 64) {c : Fin 64 → Int} (hc : ∀ n, |c n| ≤ 32767) :
    |∑ n : Fin 64, w[n].toInt * c n| < 2 ^ 36 := by
  have hterm (n : Fin 64) : |w[n].toInt * c n| ≤ 2 ^ 15 * 32767 := by
    rw [abs_mul]
    exact mul_le_mul (abs_sampleValue_le w[n]) (hc n) (abs_nonneg _) (by decide)
  calc |∑ n : Fin 64, w[n].toInt * c n|
      ≤ ∑ n : Fin 64, |w[n].toInt * c n| := Finset.abs_sum_le_sum_abs _ _
    _ ≤ 64 * (2 ^ 15 * 32767) := Finset.sum_le_card_nsmul _ _ _ fun n _ => hterm n
    _ < 2 ^ 36 := by decide

section Widths
variable (w : Vector Sample 64) (k : Nat)

/-- The real part fits 37 bits signed (R175). -/
theorem abs_dftRe_lt : |dftRe w k| < 2 ^ 36 := by
  rw [dftRe_eq_sum]
  exact abs_window_sum_lt w fun n => abs_sineRom_le _

/-- The imaginary part fits 37 bits signed (R175). -/
theorem abs_dftIm_lt : |dftIm w k| < 2 ^ 36 := by
  rw [dftIm_eq_neg_sum, abs_neg]
  exact abs_window_sum_lt w fun n => abs_sineRom_le _

/-- The sum of squares fits 74 bits (R175). -/
theorem dft_sq_add_sq_lt : dftRe w k ^ 2 + dftIm w k ^ 2 < 2 ^ 73 := by
  have hsq {x : Int} (h : |x| < 2 ^ 36) : x ^ 2 < (2 ^ 36) ^ 2 := by
    obtain ⟨hlo, hhi⟩ := abs_lt.mp h
    exact sq_lt_sq' hlo hhi
  have hre := hsq (abs_dftRe_lt w k)
  have him := hsq (abs_dftIm_lt w k)
  omega

/-- The raw magnitude is below 2^30 (R176). -/
theorem rawMag_lt : rawMag w k < 2 ^ 30 := by
  have hsum : (dftRe w k ^ 2 + dftIm w k ^ 2).toNat < (2 ^ 37) ^ 2 := by
    have := dft_sq_add_sq_lt w k
    omega
  rw [rawMag_eq_sqrt]
  exact Nat.div_lt_of_lt_mul (Nat.sqrt_lt'.mpr hsum)

end Widths

/-- Smoothing stays below any bound from 2^30 up that the old magnitude keeps (R177). -/
theorem smooth_lt {mag raw b : Nat} (hmag : mag < b) (hraw : raw < 2 ^ 30) (hb : 2 ^ 30 ≤ b) :
    smooth mag raw < b := by
  unfold smooth
  omega

/-- The register takes each smoothed magnitude without wrapping (R177). -/
theorem smoothAll_toNat (mag : Vector Word 64) (w : Vector Sample 64) (k : Fin 64) :
    (smoothAll mag w)[k].toNat = smooth mag[k].toNat (rawMag w k.val) := by
  have hfits := smooth_lt mag[k].isLt (rawMag_lt w k.val) (by decide)
  simpa [smoothAll] using hfits

/-- Settles O29: a sum has 64 products of a sample and a twiddle, and each bound follows from the one before. -/
theorem estimatorNeverOverflows : Obligations.EstimatorNeverOverflows := by
  unfold Obligations.EstimatorNeverOverflows
  intro w k
  have hraw := rawMag_lt w k.val
  refine ⟨fun n => abs_sampleValue_le w[n], fun m => ⟨abs_sineRom_le _, abs_sineRom_le _⟩,
    abs_dftRe_lt w k.val, abs_dftIm_lt w k.val, dft_sq_add_sq_lt w k.val, hraw, fun m => ⟨?_, ?_⟩⟩
  · have hm := m.isLt
    omega
  · exact smooth_lt m.isLt hraw (by decide)

end Sys2Proof.Machine
end

section
/-! PROOF. R175, R177: every step keeps the magnitudes below 2^30. -/

namespace Sys2Proof.Machine

/-- A running minimum is bounded below by what bounds its start and the elements. -/
theorem le_foldl_min_iff (l : List Nat) (a b : Nat) :
    b ≤ l.foldl min a ↔ b ≤ a ∧ ∀ x ∈ l, b ≤ x := by
  induction l generalizing a with
  | nil => simp
  | cons x l ih => simp [ih, and_assoc]

section Detector
variable (p : Params) (mag : Vector Word 64)

/-- The noise floor is at most 1 or the magnitude of any bin outside the band (R204). -/
theorem noiseFloor_le {k : Fin 64} (hk : inBand k = false) : noiseFloor mag ≤ max 1 mag[k].toNat := by
  have hmem : mag[k].toNat ∈ noiseBins.map fun k => mag[k].toNat :=
    List.mem_map_of_mem (List.mem_filter.mpr ⟨List.mem_finRange k, by simp [hk]⟩)
  obtain ⟨-, hmin⟩ := (le_foldl_min_iff _ (2 ^ 32 - 1) _).mp le_rfl
  exact max_le_max le_rfl (hmin _ hmem)

/-- NOISE is the noise floor, whether or not the detection succeeds (R204, R207). -/
theorem detect_noise_toNat : (detect p mag).noise.toNat = noiseFloor mag := by
  obtain ⟨-, hlt⟩ := noiseFloor_bounds mag
  rcases detect_cases p mag with ⟨-, pk, rest, -, h⟩ | ⟨-, h⟩ <;> rw [h] <;>
    exact Nat.mod_eq_of_lt hlt

/-- PEAK is at most the band maximum (R207). -/
theorem detect_peak_toNat_le : (detect p mag).peak.toNat ≤ bandMax mag := by
  rcases detect_cases p mag with ⟨-, pk, rest, -, h⟩ | ⟨-, h⟩ <;> rw [h]
  · exact Nat.mod_le _ _
  · exact Nat.zero_le _

variable {mag} {b : Nat} (hmag : ∀ k : Fin 64, mag[k].toNat < b)
include hmag

/-- PEAK is below what all magnitudes are below (R207). -/
theorem detect_peak_lt : (detect p mag).peak.toNat < b := by
  have hb : 0 < b := Nat.zero_lt_of_lt (hmag 0)
  have hband := (bandMax_le_iff mag (b - 1)).mpr fun k _ => Nat.le_pred_of_lt (hmag k)
  have hpeak := detect_peak_toNat_le p mag
  omega

/-- NOISE is below what all magnitudes are below, but for the clip at 1 (R204). -/
theorem detect_noise_lt (hb : 1 < b) : (detect p mag).noise.toNat < b := by
  rw [detect_noise_toNat]
  exact (noiseFloor_le mag (k := 0) rfl).trans_lt (max_lt hb (hmag 0))

end Detector

section Bounded
variable {s t : State}

/-- `MagnitudesBounded` speaks of the demodulator only. -/
theorem MagnitudesBounded.of_dm_eq (hs : MagnitudesBounded s) (hd : t.dm = s.dm) :
    MagnitudesBounded t := by
  obtain ⟨hmag, hpeak, hnoise⟩ := hs
  rw [← hd] at hmag hpeak hnoise
  exact ⟨hmag, hpeak, hnoise⟩

/-- A demodulator at reset holds zeros (R360). -/
theorem MagnitudesBounded.of_reset (hd : s.dm = .reset) : MagnitudesBounded s :=
  magnitudesBounded_reset.of_dm_eq hd

/-- A completed block smooths magnitudes below 2^30 to such, and the detector copies from them (R173, R177). -/
theorem MagnitudesBounded.of_completed {x : Sample} (hs : MagnitudesBounded s)
    (hd : t.dm = ((s.dm.store x).completeBlock s.params).1) : MagnitudesBounded t := by
  have hmag (k : Fin 64) : (smoothAll s.dm.mag (s.dm.store x).win)[k].toNat < 2 ^ 30 := by
    rw [smoothAll_toNat]
    exact smooth_lt (hs.mag k) (rawMag_lt _ _) le_rfl
  constructor <;> rw [hd]
  case mag => exact hmag
  case peak => exact detect_peak_lt _ hmag
  case noise => exact detect_noise_lt _ hmag (by decide)

end Bounded

/-- Every command keeps the magnitudes below 2^30. -/
theorem effect_keeps_magnitudesBounded {s t : State} {i : Instr} (hs : MagnitudesBounded s)
    (h : Effect s i t) : MagnitudesBounded t := by
  cases h with
  | sysReset | dmReset => exact .of_reset rfl
  | completed x => exact hs.of_completed rfl
  | stored x => exact ⟨hs.mag, hs.peak, hs.noise⟩
  | _ => exact hs.of_dm_eq rfl

/-- Settles O57: only the resets and a completed block write magnitudes. -/
theorem stepKeepsMagnitudesBounded : Obligations.StepKeepsMagnitudesBounded := by
  unfold Obligations.StepKeepsMagnitudesBounded
  exact fun s t hs h => step_keeps_of_effect (fun s t hsame hs => hs.of_dm_eq hsame.dm)
    (fun _ _ _ => effect_keeps_magnitudesBounded) hs h

end Sys2Proof.Machine
end

section
/-! PROOF. R178: the smoothing under a constant raw magnitude. -/

namespace Sys2Proof.Machine

/-- A block brings the magnitude closer to the raw magnitude by at least 1, until it is within 2 (R178). -/
theorem smooth_approaches (m r : Nat) :
    ((smooth m r : Int) - r).natAbs ≤ max 2 (((m : Int) - r).natAbs - 1) := by
  unfold smooth
  omega

section Iterate
variable (r j : Nat)

/-- After j blocks the distance has shrunk by j, or is at most 2 (R178). -/
theorem smooth_iterate_approaches (m : Nat) :
    (((fun x => smooth x r)^[j] m : Int) - r).natAbs ≤ max 2 (((m : Int) - r).natAbs - j) := by
  induction j with
  | zero => simp
  | succ j ih =>
    rw [Function.iterate_succ_apply']
    have hstep := smooth_approaches ((fun x => smooth x r)^[j] m) r
    omega

/-- Rounding moves a smoothed magnitude by at most 2/5 from the exact average (R177). -/
theorem abs_smooth_sub_le (m : Nat) : |(smooth m r : ℚ) - (4 * m + r) / 5| ≤ 2 / 5 := by
  have hdiv : smooth m r * 5 ≤ 4 * m + r + 2 ∧ 4 * m + r + 2 ≤ smooth m r * 5 + 4 := by
    unfold smooth
    omega
  obtain ⟨hlo, hhi⟩ := hdiv
  have hlo' : (smooth m r : ℚ) * 5 ≤ 4 * m + r + 2 := by exact_mod_cast hlo
  have hhi' : (4 * m + r + 2 : ℚ) ≤ smooth m r * 5 + 4 := by exact_mod_cast hhi
  rw [abs_le]
  constructor <;> linarith

/-- From 0 the magnitude follows the exact average to within 2: a block keeps 4/5 of the error and adds 2/5
(R178). -/
theorem smooth_iterate_near_average :
    |(((fun x => smooth x r)^[j] 0 : Nat) : ℚ) - (r : ℚ) * (1 - (4 / 5 : ℚ) ^ j)| ≤ 2 := by
  induction j with
  | zero => simp
  | succ j ih =>
    rw [Function.iterate_succ_apply', pow_succ]
    have hround := abs_smooth_sub_le r ((fun x => smooth x r)^[j] 0)
    rw [abs_le] at ih hround ⊢
    constructor <;> linarith

end Iterate

/-- Settles O30: the division for one block, `smooth_iterate_approaches` and `smooth_iterate_near_average`
for many. -/
theorem smoothingConverges : Obligations.SmoothingConverges := by
  unfold Obligations.SmoothingConverges
  intro r
  refine ⟨fun m => ?_, fun m hm => ?_, fun m hm => ?_, fun m => ⟨((m : Int) - r).natAbs, fun j hj => ?_⟩,
    smooth_iterate_near_average r⟩
  · rw [smooth, abs_le]
    omega
  · unfold smooth
    omega
  · unfold smooth
    omega
  · have hnear := smooth_iterate_approaches r j m
    rw [abs_le]
    omega

end Sys2Proof.Machine
end

section
/-! PROOF. R171-R173: what DM_RESET and DM_PUSH change. -/

namespace Sys2Proof.Machine

section Frames
variable {changed : Nat → Prop} {s t : State}

/-- Replacing the demodulator changes no more of the window than its registers that read differently. -/
theorem setDm_frame {u : DemodUnit}
    (h : ∀ r : Reg, ¬ changed r.offset → r.read (s.setDm u) = r.read s) :
    Frame changed s (s.setDm u).retire where
  window a ha := (memRead_retire _ a).trans (memRead_eq_of_regs h a ha)
  params := rfl
  pending := rfl
  replies := rfl
  ready := rfl
  readyPlan := rfl

/-- Replacing the demodulator changes at most the DM registers and MAG (R71). -/
theorem setDm_frame_demod (s : State) (u : DemodUnit) :
    Frame (fun a => isDmReg a ∨ isMag a) s (s.setDm u).retire := by
  refine setDm_frame fun r hr => ?_
  cases r with
  | dmSym | dmPeak | dmNoise | dmSnr | dmSidx | dmCount => exact absurd (.inl ⟨by decide, by decide⟩) hr
  | mag k => exact absurd (.inr ⟨k, rfl⟩) hr
  | _ => rfl

/-- SYM_OUT is no register of the window (R59). -/
theorem Frame.emitSym (h : Frame changed s t.retire) (r : SymRecord) :
    Frame changed s (t.emitSym r).retire :=
  { h with
    window := fun a ha => by
      rw [memRead_retire, memRead_emitSym, ← memRead_retire]
      exact h.window a ha }

end Frames

section Reset
variable (s : State)

/-- The DM registers and MAG read 0 in a demodulator at reset (R171). -/
theorem read_setDm_reset {r : Reg} (h : isDmReg r.offset ∨ isMag r.offset) :
    r.read (s.setDm .reset) = 0 := by
  cases r with
  | dmSym => simp [DemodUnit.reset, DmSym.toWord, flagAt]
  | dmPeak | dmNoise | dmSnr | dmSidx | dmCount => rfl
  | mag k => simp [DemodUnit.reset]
  | _ =>
    simp only [isDmReg, isMag, Reg.offset] at h
    omega

/-- The offsets of the DM registers and MAG read 0 in a demodulator at reset, those between registers too
(R73, R171). -/
theorem memRead_setDm_reset {a : Nat} (h : isDmReg a ∨ isMag a) : memRead (s.setDm .reset) a = 0 := by
  unfold memRead
  split
  · next r hr => exact read_setDm_reset s (Reg.offset_of_ofOffset? hr ▸ h)
  · rfl

end Reset

/-- Settles O25: the demodulator's reset value is all zeros, and nothing else is replaced. -/
theorem dmResetClearsTheDemodulator : Obligations.DmResetClearsTheDemodulator := by
  unfold Obligations.DmResetClearsTheDemodulator
  intro s
  exact ⟨_, rfl, fun a ha => (memRead_retire _ a).trans (memRead_setDm_reset s ha),
    fun n => by simp [DemodUnit.reset], setDm_frame_demod s .reset, rfl, rfl⟩

section Push
variable (d : DemodUnit) (x : Sample)

/-- A push stores the sample at DM_COUNT[5:0] and keeps the rest of the window (R172). -/
theorem store_win_getElem (n : Fin 64) :
    (d.store x).win[n] = if n.val = d.count.toNat % 64 then x else d.win[n] := by
  simp [Vector.getElem_set, eq_comm]

/-- Clearing BLOCK clears bit 16 of the word DM_SYM reads as, and no other (R39, R172). -/
theorem DmSym.toWord_clearBlock (sym : DmSym) :
    { sym with block := false }.toWord = sym.toWord &&& ~~~0x00010000 := by
  obtain ⟨sym, valid, block⟩ := sym
  decide +revert

/-- The word DM_SYM reads as while BLOCK is set (R39, R173). -/
theorem DmSym.toWord_block (sym : BitVec 3) (valid : Bool) :
    DmSym.toWord { sym := sym, valid := valid, block := true } =
      sym.setWidth 32 ||| (if valid then 0x00000100 else 0) ||| 0x00010000 := by
  have hvalid : flagAt valid 8 = if valid then 0x00000100 else 0 := by cases valid <;> rfl
  have hblock : flagAt true 16 = 0x00010000 := rfl
  rw [DmSym.toWord, hvalid, hblock]

/-- A push inside a block changes DM_COUNT and DM_SYM only (R172). -/
theorem stored_frame (s : State) :
    Frame (fun a => a = Reg.dmCount.offset ∨ a = Reg.dmSym.offset) s
      (s.setDm (s.dm.store x).clearBlock).retire := by
  refine setDm_frame fun r hr => ?_
  cases r with
  | dmCount => exact absurd (.inl rfl) hr
  | dmSym => exact absurd (.inr rfl) hr
  | _ => rfl

end Push

/-- DM_PUSH inside a block (R172). -/
theorem exec_dmPush_inside {s : State} (h : s.dm.count.toNat % 64 ≠ 63) (x : Sample) :
    exec (.dmPush x) s = .next (s.setDm (s.dm.store x).clearBlock).retire := by
  have hb := mt (atBoundary_iff s.dm).mp h
  rcases exec_dmPush_cases x s with ⟨-, he⟩ | ⟨⟨hb', -⟩, -⟩ | ⟨⟨hb', -⟩, -⟩
  · exact he
  · exact absurd hb' hb
  · exact absurd hb' hb

/-- DM_PUSH at a boundary whose record is accepted (R172, R173). -/
theorem exec_dmPush_boundary {s : State} (h : s.dm.count.toNat % 64 = 63) (ready : s.ready.sym = true)
    (x : Sample) :
    exec (.dmPush x) s =
      .next ((s.setDm ((s.dm.store x).completeBlock s.params).1).emitSym
        ((s.dm.store x).completeBlock s.params).2).retire := by
  have hb := (atBoundary_iff s.dm).mpr h
  rcases exec_dmPush_cases x s with ⟨inside, -⟩ | ⟨-, he⟩ | ⟨⟨-, busy⟩, -⟩
  · simp [hb] at inside
  · exact he
  · simp [ready] at busy

/-- Settles O26: inside a block a push is `store`, then `clearBlock`. -/
theorem pushInsideABlock : Obligations.PushInsideABlock := by
  unfold Obligations.PushInsideABlock
  intro x s h
  exact ⟨_, exec_dmPush_inside h x, rfl, DmSym.toWord_clearBlock s.dm.sym, store_win_getElem s.dm x,
    stored_frame x s, rfl, rfl⟩

/-- Settles O27: `completeBlock` smooths by `smoothAll`, which does not wrap, and its record is what it writes
to the DM registers. -/
theorem pushCompletesABlock : Obligations.PushCompletesABlock := by
  unfold Obligations.PushCompletesABlock
  intro x s h ready
  refine ⟨_, ((s.dm.store x).completeBlock s.params).2, exec_dmPush_boundary h ready x, rfl,
    fun n => ?_, fun k => ?_, rfl, rfl, rfl, rfl, rfl, rfl, DmSym.toWord_block _ _,
    rfl, rfl, rfl, rfl, rfl, rfl, (setDm_frame_demod s _).emitSym _⟩
  · exact (store_win_getElem s.dm x n).trans (by rw [h])
  · rw [show 0x100 + 4 * k.val = (Reg.mag k).offset from rfl, memRead_offset, memRead_offset]
    exact smoothAll_toNat s.dm.mag (s.dm.store x).win k

end Sys2Proof.Machine
end

section
/-! PROOF. R201-R204: the detector's winner under each tie policy, and its noise floor. -/

namespace Sys2Proof.Machine

/-- The detector's test for the band (R201). -/
theorem inBand_iff (k : Fin 64) : inBand k = true ↔ BandBin k := by
  simp [inBand, BandBin]

/-- The bins the detector looks at are those of the band (R201). -/
theorem mem_bandBins (k : Fin 64) : k ∈ bandBins ↔ BandBin k := by
  simp [bandBins, inBand_iff]

/-- The bins of the noise floor are those outside the band (R204). -/
theorem mem_noiseBins (k : Fin 64) : k ∈ noiseBins ↔ ¬ BandBin k := by
  simp [noiseBins, ← inBand_iff]

/-- A band bin with the largest magnitude of the band (R201). -/
structure IsBandPeak (mag : Vector Word 64) (k : Fin 64) : Prop where
  inBand : BandBin k
  le     : ∀ j : Fin 64, BandBin j → mag[j].toNat ≤ mag[k].toNat

section Winners
variable (mag : Vector Word 64) {k : Fin 64}

/-- Some band bin holds the maximum (R201). -/
theorem exists_isBandPeak : ∃ k, IsBandPeak mag k := by
  obtain ⟨k, hk, hmax⟩ :=
    bandBins.toFinset.exists_max_image (fun k => mag[k].toNat) ⟨6, by decide⟩
  simp only [List.mem_toFinset, mem_bandBins] at hk hmax
  exact ⟨k, hk, hmax⟩

variable {mag}

/-- The band maximum is the magnitude of a bin that holds it (R201). -/
theorem IsBandPeak.bandMax_eq (h : IsBandPeak mag k) : bandMax mag = mag[k].toNat := by
  have hle := (bandMax_le_iff mag mag[k].toNat).mpr fun j hj => h.le j ((mem_bandBins j).mp hj)
  have hge := (bandMax_le_iff mag _).mp le_rfl k ((mem_bandBins k).mpr h.inBand)
  exact le_antisymm hle hge

/-- W holds the band bins with the largest magnitude (R201). -/
theorem mem_winners : k ∈ winners mag ↔ IsBandPeak mag k := by
  obtain ⟨top, htop⟩ := exists_isBandPeak mag
  rw [winners, List.mem_filter, mem_bandBins, beq_iff_eq]
  constructor
  · rintro ⟨hk, hmax⟩
    exact ⟨hk, fun j hj => (htop.le j hj).trans (htop.bandMax_eq.symm.trans hmax.symm).le⟩
  · exact fun h => ⟨h.inBand, h.bandMax_eq.symm⟩

/-- W is ascending (R201, R206). -/
theorem winners_ascending : (winners mag).Pairwise (· < ·) :=
  ((List.pairwise_lt_finRange 64).filter _).filter _

/-- The lowest bin that holds the maximum is the first of W (R202). -/
theorem IsBandPeak.winners_eq_cons (h : IsBandPeak mag k)
    (lowest : ∀ j : Fin 64, BandBin j → j < k → mag[j].toNat < mag[k].toNat) :
    ∃ rest, winners mag = k :: rest := by
  have hk := mem_winners.mpr h
  have hasc := winners_ascending (mag := mag)
  cases hw : winners mag with
  | nil => simp [hw] at hk
  | cons first rest =>
    have hfirst : IsBandPeak mag first := mem_winners.mp (hw ▸ List.mem_cons_self)
    rw [hw] at hk hasc
    rcases List.mem_cons.mp hk with rfl | hrest
    · exact ⟨rest, rfl⟩
    · have hlt := lowest first hfirst.inBand (List.rel_of_pairwise_cons hasc hrest)
      exact absurd (hfirst.le k h.inBand) (Nat.not_le.mpr hlt)

/-- A band bin above all other band bins (R202: "exactly one band bin holds the maximum"). -/
structure IsStrictBandPeak (mag : Vector Word 64) (k : Fin 64) : Prop where
  inBand : BandBin k
  above  : ∀ j : Fin 64, BandBin j → j ≠ k → mag[j].toNat < mag[k].toNat

/-- A bin above all others holds the maximum. -/
theorem IsStrictBandPeak.isBandPeak (h : IsStrictBandPeak mag k) : IsBandPeak mag k := by
  refine ⟨h.inBand, fun j hj => ?_⟩
  rcases eq_or_ne j k with rfl | hne
  · exact le_rfl
  · exact (h.above j hj hne).le

/-- Under STRICT a detection succeeds iff one bin is above all others (R202). -/
theorem detectOk_strict_iff : detectOk .strict mag = true ↔ ∃ k, IsStrictBandPeak mag k := by
  rw [detectOk, beq_iff_eq]
  constructor
  · intro hlen
    obtain ⟨k, hw⟩ := List.length_eq_one_iff.mp hlen
    have hunique (j : Fin 64) : IsBandPeak mag j ↔ j = k := by
      rw [← mem_winners, hw, List.mem_singleton]
    obtain ⟨hk, hmax⟩ := (hunique k).mpr rfl
    refine ⟨k, hk, fun j hj hne => lt_of_not_ge fun hge => hne ((hunique j).mp ⟨hj, ?_⟩)⟩
    exact fun i hi => (hmax i hi).trans hge
  · rintro ⟨k, h⟩
    obtain ⟨rest, hw⟩ := h.isBandPeak.winners_eq_cons fun j hj hlt => h.above j hj hlt.ne
    have hasc := winners_ascending (mag := mag)
    rw [hw] at hasc ⊢
    have hempty : rest = [] := List.eq_nil_iff_forall_not_mem.mpr fun j hj => by
      have hpeak : IsBandPeak mag j := mem_winners.mp (hw ▸ List.mem_cons_of_mem k hj)
      have hlt := h.above j hpeak.inBand (List.rel_of_pairwise_cons hasc hj).ne'
      exact absurd (hpeak.le k h.inBand) (Nat.not_le.mpr hlt)
    rw [hempty, List.length_singleton]

/-- Under LOWEST_NONZERO a detection succeeds iff some band magnitude is not 0 (R202). -/
theorem detectOk_lowestNonzero_iff :
    detectOk .lowestNonzero mag = true ↔ ∃ k : Fin 64, BandBin k ∧ mag[k] ≠ 0 := by
  have hzero : bandMax mag ≤ 0 ↔ ∀ k : Fin 64, BandBin k → mag[k] = 0 := by
    rw [bandMax_le_iff]
    simp [mem_bandBins, BitVec.toNat_eq]
  rw [detectOk, decide_eq_true_eq, ← Nat.not_le, hzero]
  push Not
  rfl

/-- A bin above all others succeeds under both policies (R202). -/
theorem IsStrictBandPeak.detects (h : IsStrictBandPeak mag k) (policy : TiePolicy) :
    detectOk policy mag = true := by
  have hstrict := detectOk_strict_iff.mpr ⟨k, h⟩
  cases policy with
  | strict => exact hstrict
  | lowestNonzero => simpa [detectOk] using bandMax_pos_of_detectOk mag hstrict

end Winners

section Answer
variable (p : Params) {mag : Vector Word 64} {k : Fin 64}

/-- VALID says that the tie policy admits a winner: W is never empty (R201, R202). -/
theorem detect_valid_iff : (detect p mag).valid = true ↔ detectOk p.tiePolicy mag = true := by
  obtain ⟨top, htop⟩ := exists_isBandPeak mag
  have hne : winners mag ≠ [] := List.ne_nil_of_mem (mem_winners.mpr htop)
  rcases detect_cases p mag with ⟨hok, pk, rest, -, h⟩ | ⟨hfail, h⟩ <;> rw [h]
  · simp [hok]
  · simp [hfail.resolve_right hne]

/-- The answer of a success is the lowest bin that holds the maximum, and that maximum (R202, R203). -/
theorem IsBandPeak.detect_eq (h : IsBandPeak mag k)
    (lowest : ∀ j : Fin 64, BandBin j → j < k → mag[j].toNat < mag[k].toNat)
    (hok : detectOk p.tiePolicy mag = true) :
    (detect p mag).valid = true ∧ (detect p mag).sym.toNat = k.val - 6 ∧
      (detect p mag).peak = mag[k] := by
  obtain ⟨rest, hw⟩ := h.winners_eq_cons lowest
  have hsym : k.val - 6 < 2 ^ 3 := by
    obtain ⟨-, hhi⟩ := h.inBand
    omega
  rcases detect_cases p mag with ⟨-, pk, rest', hw', hd⟩ | ⟨hfail, -⟩
  · cases hw.symm.trans hw'
    rw [hd]
    exact ⟨rfl, Nat.mod_eq_of_lt hsym, by simp [h.bandMax_eq]⟩
  · simp [hok, hw] at hfail

/-- A bin above all other band bins is the answer under both policies (R202, R203). -/
theorem IsStrictBandPeak.detect_eq (h : IsStrictBandPeak mag k) :
    (detect p mag).valid = true ∧ (detect p mag).sym.toNat = k.val - 6 ∧
      (detect p mag).peak = mag[k] :=
  h.isBandPeak.detect_eq p (fun j hj hlt => h.above j hj hlt.ne) (h.detects p.tiePolicy)

/-- The SNR of a success is SNR_FN of its PEAK and NOISE (R205, R206). -/
theorem detect_snr_eq (h : (detect p mag).valid = true) :
    (detect p mag).snr = snr p.snrFn (detect p mag).peak (detect p mag).noise := by
  rcases detect_cases p mag with ⟨-, pk, rest, -, hd⟩ | ⟨-, hd⟩ <;> rw [hd] at h ⊢
  cases h

/-- With the band all 0 a detection fails: a success has PEAK at least 1 (R202). -/
theorem detect_valid_of_band_zero (h : ∀ k : Fin 64, BandBin k → mag[k] = 0) :
    (detect p mag).valid = false := by
  by_contra hvalid
  have hpeak := one_le_detect_peak p mag (by simpa using hvalid)
  have hle := detect_peak_toNat_le p mag
  obtain ⟨top, htop⟩ := exists_isBandPeak mag
  rw [htop.bandMax_eq, h top htop.inBand] at hle
  exact absurd (hpeak.trans hle) (by decide)

end Answer

/-- Settles O32: W is the ascending list of the bins that hold the maximum, and each policy's test says when
its first bin wins. -/
theorem winnerUnderEachTiePolicy : Obligations.WinnerUnderEachTiePolicy := by
  unfold Obligations.WinnerUnderEachTiePolicy
  intro p mag
  refine ⟨detect_valid_of_band_zero p, fun k hk habove => IsStrictBandPeak.detect_eq p ⟨hk, habove⟩,
    fun hpol hvalid => ?strict, fun hpol => ⟨?success, fun k hk hne hmax hlow => ?lowest⟩,
    detect_snr_eq p, detect_failed p mag⟩
  case strict =>
    rw [detect_valid_iff, hpol] at hvalid
    obtain ⟨k, hk, habove⟩ := detectOk_strict_iff.mp hvalid
    exact ⟨k, hk, habove⟩
  case success => rw [detect_valid_iff, hpol, detectOk_lowestNonzero_iff]
  case lowest =>
    have hok : detectOk p.tiePolicy mag = true := hpol ▸ detectOk_lowestNonzero_iff.mpr ⟨k, hk, hne⟩
    obtain ⟨-, hanswer⟩ := IsBandPeak.detect_eq p ⟨hk, hmax⟩ hlow hok
    exact hanswer

/-- The noise floor is at least 1 and at least what all bins outside the band reach (R204). -/
theorem le_noiseFloor {mag : Vector Word 64} {b : Nat}
    (h : ∀ k : Fin 64, ¬ BandBin k → b ≤ mag[k].toNat) : max 1 b ≤ noiseFloor mag := by
  have hstart : b ≤ 2 ^ 32 - 1 := by
    have hb := h 0 (by simp [BandBin])
    have hlt := mag[(0 : Fin 64)].isLt
    omega
  have hbins : ∀ x ∈ noiseBins.map fun k => mag[k].toNat, b ≤ x :=
    List.forall_mem_map.mpr fun k hk => h k ((mem_noiseBins k).mp hk)
  exact max_le_max le_rfl ((le_foldl_min_iff _ _ _).mpr ⟨hstart, hbins⟩)

/-- Settles O33: the fold over the bins outside the band is the magnitude of one of them, and no larger than
that of any other. -/
theorem noiseIsTheClippedMinimum : Obligations.NoiseIsTheClippedMinimum := by
  unfold Obligations.NoiseIsTheClippedMinimum
  intro p mag
  obtain ⟨least, hout, hmin⟩ :=
    noiseBins.toFinset.exists_min_image (fun k => mag[k].toNat) ⟨0, by decide⟩
  simp only [List.mem_toFinset, mem_noiseBins] at hout hmin
  have hle : noiseFloor mag ≤ max 1 mag[least].toNat :=
    noiseFloor_le mag (Bool.eq_false_iff.mpr (mt (inBand_iff least).mp hout))
  refine ⟨least, hout, hmin, ?_⟩
  rw [detect_noise_toNat]
  exact le_antisymm hle (le_noiseFloor hmin)

end Sys2Proof.Machine
end

section
/-! PROOF. R205: the integer search of the reference SNR function is the real formula, rounded half up. -/

namespace Sys2Proof.Machine

section Logarithm
variable {p n : Nat}

/-- The logarithm of a product of powers. -/
theorem logb_pow_mul_pow {a b : ℝ} (ha : 0 < a) (hb : 0 < b) (e f : Nat) :
    Real.logb 10 (a ^ e * b ^ f) = e * Real.logb 10 a + f * Real.logb 10 b := by
  rw [Real.logb_mul (pow_pos ha e).ne' (pow_pos hb f).ne', Real.logb_pow, Real.logb_pow]

/-- The search's test compares its candidate with the real formula, both above an offset c (R205). -/
theorem snrTest_iff (hp : 1 ≤ p) (hn : 1 ≤ n) (k c : Nat) :
    10 ^ (2 * k) * n ^ 10240 ≤ p ^ 10240 * 10 ^ (2 * c + 1) ↔
      (k : ℝ) ≤ 5120 * Real.logb 10 (p / n) + 1 / 2 + c := by
  have hp0 : (0 : ℝ) < p := by exact_mod_cast hp
  have hn0 : (0 : ℝ) < n := by exact_mod_cast hn
  calc 10 ^ (2 * k) * n ^ 10240 ≤ p ^ 10240 * 10 ^ (2 * c + 1)
      ↔ (10 : ℝ) ^ (2 * k) * n ^ 10240 ≤ p ^ 10240 * 10 ^ (2 * c + 1) := by norm_cast
    _ ↔ Real.logb 10 (10 ^ (2 * k) * n ^ 10240) ≤ Real.logb 10 (p ^ 10240 * 10 ^ (2 * c + 1)) :=
        (Real.logb_le_logb (by norm_num) (by positivity) (by positivity)).symm
    _ ↔ (k : ℝ) ≤ 5120 * Real.logb 10 (p / n) + 1 / 2 + c := by
        rw [logb_pow_mul_pow (by norm_num) hn0, logb_pow_mul_pow hp0 (by norm_num),
          Real.logb_self_eq_one (by norm_num), Real.logb_div hp0.ne' hn0.ne']
        push_cast
        constructor <;> intro h <;> linarith

/-- log10 2 is at most 28/93, because 2^93 is at most 10^28. -/
theorem logb_ten_two_le : Real.logb 10 2 ≤ 28 / 93 := by
  have hpow : Real.logb 10 (2 ^ 93) ≤ Real.logb 10 (10 ^ 28) :=
    Real.logb_le_logb_of_le (by norm_num) (by norm_num) (by norm_num)
  rw [Real.logb_pow, Real.logb_pow, Real.logb_self_eq_one (by norm_num)] at hpow
  norm_num at hpow
  linarith

/-- The logarithm of a number of at most b bits. -/
theorem logb_lt_of_lt_two_pow {b : Nat} (hp : 1 ≤ p) (hpb : p < 2 ^ b) :
    0 ≤ Real.logb 10 p ∧ Real.logb 10 p < b * (28 / 93) := by
  refine ⟨Real.logb_nonneg (by norm_num) (by exact_mod_cast hp), ?_⟩
  calc Real.logb 10 p < Real.logb 10 (2 ^ b) :=
        Real.logb_lt_logb (by norm_num) (by exact_mod_cast hp) (by exact_mod_cast hpb)
    _ = b * Real.logb 10 2 := Real.logb_pow 10 2 b
    _ ≤ b * (28 / 93) := mul_le_mul_of_nonneg_left logb_ten_two_le b.cast_nonneg

/-- The logarithm of a ratio of numbers of at most b bits. -/
theorem abs_logb_div_lt {b : Nat} (hp : 1 ≤ p) (hpb : p < 2 ^ b) (hn : 1 ≤ n) (hnb : n < 2 ^ b) :
    |Real.logb 10 (p / n)| < b * (28 / 93) := by
  obtain ⟨hp0, hplt⟩ := logb_lt_of_lt_two_pow hp hpb
  obtain ⟨hn0, hnlt⟩ := logb_lt_of_lt_two_pow hn hnb
  rw [Real.logb_div (by positivity) (by positivity)]
  exact abs_sub_lt_of_nonneg_of_lt hp0 hplt hn0 hnlt

/-- The search for the largest k below 2^bits whose test compares it with a real number finds that number's
floor. -/
theorem searchBits_eq_floor {test : Nat → Bool} {x : ℝ} {bits : Nat}
    (htest : ∀ k, test k = true ↔ (k : ℝ) ≤ x) (hx0 : 0 ≤ x) (hx : x < 2 ^ bits) :
    (searchBits test bits 0 : Int) = ⌊x⌋ := by
  have down : ∀ a b, a ≤ b → test b = true → test a = true := fun a b hab hb =>
    (htest a).mpr ((Nat.cast_le.mpr hab).trans ((htest b).mp hb))
  obtain ⟨hpass, -, -, hlargest⟩ :=
    searchBits_spec test down bits 0 ((htest 0).mpr (by exact_mod_cast hx0))
  have hle := (htest _).mp hpass
  have hfloor : ⌊x⌋₊ ≤ searchBits test bits 0 := by
    refine hlargest _ ?_ ((htest _).mpr (Nat.floor_le hx0))
    rw [Nat.zero_add, Nat.floor_lt hx0]
    exact_mod_cast hx
  rw [← Int.natCast_floor_eq_floor hx0]
  exact congrArg _ (le_antisymm (Nat.le_floor hle) hfloor)

/-- SNR_ref is the real formula, for all arguments of 32 bits (R205). -/
theorem snrRef_eq_floor (hp : 1 ≤ p) (hpb : p < 2 ^ 32) (hn : 1 ≤ n) (hnb : n < 2 ^ 32) :
    snrRef p n = ⌊5120 * Real.logb 10 (p / n) + 1 / 2⌋ := by
  obtain ⟨hlo, hhi⟩ := abs_lt.mp (abs_logb_div_lt hp hpb hn hnb)
  norm_num at hlo hhi
  have hsearch := searchBits_eq_floor (bits := 17)
    (fun k => decide_eq_true_iff.trans (snrTest_iff hp hn k (2 ^ 16)))
    (by norm_num; linarith) (by norm_num; linarith)
  rw [snrRef, hsearch, Int.floor_add_natCast]
  norm_num

end Logarithm

/-- Settles O34: the search's test compares k - 2^16 with the real formula, so the largest k that passes gives
the floor. -/
theorem snrReferenceIsTheFormula : Obligations.SnrReferenceIsTheFormula := by
  unfold Obligations.SnrReferenceIsTheFormula
  intro p n hp hpb hn hnb
  have hfloor := snrRef_eq_floor hp hpb hn hnb
  refine ⟨by rw [hfloor]; norm_num, fun hp30 hn30 => ?_⟩
  obtain ⟨hlo, hhi⟩ := abs_lt.mp (abs_logb_div_lt hp hp30 hn hn30)
  rw [hfloor, abs_lt, ← Int.add_one_le_iff, Int.le_floor, Int.floor_lt]
  norm_num at hlo hhi ⊢
  constructor <;> linarith

end Sys2Proof.Machine
end

section
/-! PROOF. R205, R10: which SNR_FN is taken shows in SNR values only. -/

namespace Sys2Proof.Machine

/-- The same machine with another SNR_FN (R10). -/
def State.withSnrFn (s : State) (f : SnrFn) : State := { s with params := { s.params with snrFn := f } }

section OtherFunction
variable (f : SnrFn)

/-- Another SNR_FN changes the SNR of a detection only (R205, R206). -/
theorem detect_snrFn (p : Params) (mag : Vector Word 64) :
    detect { p with snrFn := f } mag =
      { detect p mag with snr := (detect { p with snrFn := f } mag).snr } := by
  unfold detect
  dsimp only
  cases detectOk p.tiePolicy mag <;> cases winners mag <;> rfl

/-- Another SNR_FN changes the SNR only of what a block writes to the DM registers and emits (R173). -/
theorem completeBlock_snrFn (p : Params) (d : DemodUnit) :
    (d.completeBlock { p with snrFn := f }).1 =
      { (d.completeBlock p).1 with snr := (d.completeBlock { p with snrFn := f }).1.snr } ∧
    (d.completeBlock { p with snrFn := f }).2 =
      { (d.completeBlock p).2 with snr := (d.completeBlock { p with snrFn := f }).2.snr } := by
  unfold DemodUnit.completeBlock
  dsimp only
  rw [detect_snrFn]
  exact ⟨rfl, rfl⟩

/-- Playing a tone does not look at SNR_FN. -/
theorem playTone_withSnrFn (s : State) (sym : BitVec 3) (n : Nat) :
    (s.withSnrFn f).playTone sym n = (s.playTone sym n).withSnrFn f := by
  rcases playTone_cases s sym n with ⟨⟨hn, hr⟩, h⟩ | ⟨go, h⟩ <;> rw [h]
  · exact playTone_held (s := s.withSnrFn f) hr sym hn
  · exact playTone_played (s := s.withSnrFn f) sym go

/-- DM_PUSH at a boundary whose record is refused (R366). -/
theorem exec_dmPush_held {s : State} (h : s.dm.count.toNat % 64 = 63) (busy : s.ready.sym = false)
    (x : Sample) : exec (.dmPush x) s = .next s := by
  obtain ⟨-, -, held⟩ := refusingConsumerHoldsTheCommand s
  exact held busy h x

/-- A command does the same under another SNR_FN, or it is a push that completes a block. -/
theorem exec_withSnrFn {i : Instr} {s t : State} (h : exec i s = .next t) :
    exec i (s.withSnrFn f) = .next (t.withSnrFn f) ∨
      ∃ x, i = .dmPush x ∧ s.dm.count.toNat % 64 = 63 ∧ s.ready.sym = true := by
  cases i with
  | tgTone sym n => cases h; exact .inl (congrArg Host.Outcome.next (playTone_withSnrFn f s sym n))
  | tgSymbol sym => cases h; exact .inl (congrArg Host.Outcome.next (playTone_withSnrFn f s sym 64))
  | vtLoad idx sym =>
    by_cases hi : idx ≤ 146
    · cases (exec_vtLoad_of_le hi sym s).symm.trans h
      exact .inl (exec_vtLoad_of_le hi sym _)
    · cases (exec_vtLoad_of_gt (by omega) sym s).symm.trans h
      exact .inl (exec_vtLoad_of_gt (by omega) sym _)
  | dmPush x =>
    by_cases hb : s.dm.count.toNat % 64 = 63
    · cases hr : s.ready.sym with
      | true => exact .inr ⟨x, rfl, hb, rfl⟩
      | false =>
        cases (exec_dmPush_held hb hr x).symm.trans h
        exact .inl (exec_dmPush_held (s := s.withSnrFn f) hb hr x)
    · cases (exec_dmPush_inside hb x).symm.trans h
      exact .inl (exec_dmPush_inside (s := s.withSnrFn f) hb x)
  | _ => cases h; exact .inl rfl

end OtherFunction

/-- Settles O35: a block is completed with the same record but for its SNR, and everything else a command does
is the same. -/
theorem snrFnChangesOnlySnr : Obligations.SnrFnChangesOnlySnr := by
  unfold Obligations.SnrFnChangesOnlySnr
  intro i s t t' f h h'
  rcases exec_withSnrFn f h with hsame | ⟨x, rfl, hb, hr⟩
  · cases hsame.symm.trans h'
    exact ⟨rfl, rfl, rfl, rfl, rfl, rfl, rfl, rfl, rfl, rfl, rfl, rfl, rfl⟩
  · cases (exec_dmPush_boundary hb hr x).symm.trans h
    cases (exec_dmPush_boundary (s := s.withSnrFn f) hb hr x).symm.trans h'
    obtain ⟨hdm, hrecord⟩ := completeBlock_snrFn f s.params (s.dm.store x)
    refine ⟨hdm, ?_, rfl, rfl, rfl, rfl, rfl, rfl, rfl, rfl, rfl, rfl, rfl⟩
    simp only [State.retire_symOut, State.emitSym_symOut, List.map_append]
    exact congrArg (_ ++ [·]) (congrArg (fun r : SymRecord => { r with snr := 0 }) hrecord)

end Sys2Proof.Machine
end

section
/-! PROOF. R208: the demodulator hears every symbol the tone generator plays, both from reset. -/

namespace Sys2Proof.Machine

/-- Up to 64 pushes into a reset demodulator fill its window in order (R44, R172). -/
theorem foldl_store_reset (xs : List Sample) (h : xs.length ≤ 64) :
    ∃ w : Vector Sample 64,
      xs.foldl DemodUnit.store .reset =
        { DemodUnit.reset with count := BitVec.ofNat 32 xs.length, win := w } ∧
      ∀ n : Fin 64, n.val < xs.length → xs[n.val]? = some w[n] := by
  induction xs using List.reverseRecOn with
  | nil => exact ⟨_, rfl, fun n hn => absurd hn (Nat.not_lt_zero _)⟩
  | append_singleton xs x ih =>
    rw [List.length_append, List.length_singleton] at h
    obtain ⟨w, hd, hw⟩ := ih (Nat.le_of_succ_le h)
    refine ⟨((xs.foldl DemodUnit.store .reset).store x).win, ?_, fun n hn => ?_⟩
    · simp [hd, DemodUnit.store, BitVec.ofNat_add]
    · rw [List.length_append, List.length_singleton] at hn
      have hcount : (xs.foldl DemodUnit.store .reset).count.toNat % 64 = xs.length := by
        rw [hd, BitVec.toNat_ofNat]
        omega
      rw [store_win_getElem, hcount]
      split
      · next hlast => simp [hlast]
      · next hold =>
        have hlt : n.val < xs.length := by omega
        rw [List.getElem?_append_left hlt, hw n hlt, hd]

section Symbol
variable (sym : BitVec 3)

/-- Sample n of a symbol from reset as a number: R146's closed form at the reset amplitude 22938. -/
def symbolValue (n : Nat) : Int :=
  min (max ((sineTable.getD (4 * (6 + sym.toNat) * n % 256) 0 * 22938 + 2 ^ 14) / 2 ^ 15)
    (-32768)) 32767

/-- The demodulator after the 64 pushes holds the symbol's samples (R172, R208). -/
theorem symbol_fills_window :
    ∃ w : Vector Sample 64,
      (ToneUnit.samples sym 64 .reset).1.foldl DemodUnit.store .reset =
        { DemodUnit.reset with count := 64, win := w } ∧
      ∀ n : Fin 64, w[n].toInt = symbolValue sym n.val := by
  have hlen := samples_length sym 64 .reset
  obtain ⟨w, hd, hw⟩ := foldl_store_reset (ToneUnit.samples sym 64 .reset).1 hlen.le
  rw [hlen] at hd hw
  refine ⟨w, hd, fun n => ?_⟩
  have hphase : ToneUnit.reset.phase[toneIx sym] = 0 := by simp [ToneUnit.reset]
  obtain ⟨hform, -⟩ := toneClosedForm sym .reset 64 n.val hphase n.isLt
  rw [List.getElem?_map, hw n n.isLt] at hform
  exact Option.some.inj hform

/-- The raw magnitude of a bin in a window that holds the symbol (R174, R176). -/
def symbolRaw (k : Nat) : Nat :=
  isqrt (((List.finRange 64).map fun n => symbolValue sym n.val * cos64 (k * n.val % 64)).sum ^ 2 +
    (-((List.finRange 64).map fun n => symbolValue sym n.val * sin64 (k * n.val % 64)).sum) ^ 2).toNat
    / 2 ^ 7

/-- The raw magnitude of each symbol's own bin, as the spec lists them with R208's test vectors. -/
def ownBinRaw : Nat :=
  [187894084, 187895503, 187895642, 187895503, 187894084, 187895503, 187894064, 187895503].getD
    sym.toNat 0

/-- The estimator's answer on a window that holds the symbol. -/
theorem rawMag_eq_symbolRaw {w : Vector Sample 64}
    (hw : ∀ n : Fin 64, w[n].toInt = symbolValue sym n.val) (k : Nat) : rawMag w k = symbolRaw sym k := by
  simp only [rawMag, dftRe, dftIm, sampleValue, hw, symbolRaw]

/-- R208's test vectors: the own bin's raw magnitude. -/
theorem symbolRaw_ownBin : ∀ sym : BitVec 3, symbolRaw sym (6 + sym.toNat) = ownBinRaw sym := by
  decide +kernel

/-- The least of the eight. -/
theorem le_ownBinRaw : ∀ sym : BitVec 3, 187894064 ≤ ownBinRaw sym := by
  decide

/-- R208's test vectors: no other band bin comes near. -/
theorem symbolRaw_otherBin_le : ∀ sym : BitVec 3, ∀ k ∈ bandBins,
    k.val ≠ 6 + sym.toNat → symbolRaw sym k.val ≤ 1714 := by
  decide +kernel

/-- R208's test vectors: bin 0, which is outside the band, is silent. -/
theorem symbolRaw_binZero : ∀ sym : BitVec 3, symbolRaw sym 0 = 0 := by
  decide +kernel

/-- R208's test vectors: the SNR of each symbol's peak over the noise floor 1. -/
theorem snrRef_ownBin : ∀ sym : BitVec 3, snrRef (smooth 0 (ownBinRaw sym)) 1 = 38784 := by
  decide +kernel

end Symbol

section Detection
variable {sym : BitVec 3} {mag : Vector Word 64}
  (hmag : ∀ k : Fin 64, mag[k].toNat = smooth 0 (symbolRaw sym k.val))
include hmag

/-- After the block the symbol's own bin is above all other band bins (R208). -/
theorem ownBin_isStrictBandPeak : IsStrictBandPeak mag ⟨6 + sym.toNat, by omega⟩ where
  inBand := by
    constructor <;> dsimp only <;> omega
  above j hj hne := by
    have hown := le_ownBinRaw sym
    have hother := symbolRaw_otherBin_le sym j ((mem_bandBins j).mpr hj) fun h => hne (Fin.ext h)
    rw [hmag, hmag, symbolRaw_ownBin, smooth, smooth]
    omega

/-- After the block the noise floor is 1, because bin 0 is silent (R204, R208). -/
theorem noiseFloor_eq_one : noiseFloor mag = 1 := by
  obtain ⟨hone, -⟩ := noiseFloor_bounds mag
  have hzero := noiseFloor_le mag (k := 0) rfl
  rw [hmag, Fin.val_zero, symbolRaw_binZero] at hzero
  exact le_antisymm hzero hone

/-- What the detector answers after the block, under either tie policy (R208). -/
theorem detect_symbol (policy : TiePolicy) :
    (detect { defaultParams with tiePolicy := policy } mag).sym = sym ∧
    (detect { defaultParams with tiePolicy := policy } mag).valid = true ∧
    (detect { defaultParams with tiePolicy := policy } mag).noise = 1 ∧
    (detect { defaultParams with tiePolicy := policy } mag).snr = 38784 := by
  generalize hp : { defaultParams with tiePolicy := policy } = p
  obtain ⟨hvalid, hsym, hpeak⟩ := (ownBin_isStrictBandPeak hmag).detect_eq p
  have hnoise : (detect p mag).noise = 1 :=
    BitVec.eq_of_toNat_eq ((detect_noise_toNat p mag).trans (noiseFloor_eq_one hmag))
  refine ⟨BitVec.eq_of_toNat_eq (by simpa using hsym), hvalid, hnoise, ?_⟩
  have hreference : p.snrFn = .reference := by rw [← hp]; rfl
  rw [detect_snr_eq p hvalid, hreference, hnoise, hpeak, snr, hmag, symbolRaw_ownBin]
  exact congrArg (BitVec.ofInt 32) (snrRef_ownBin sym)

end Detection

/-- Settles O36: the 64 pushes fill the window with the symbol's samples, whose spectrum is evaluated for the
bins that decide, and the detector's laws give the record. -/
theorem loopbackDetectsEverySymbol : Obligations.LoopbackDetectsEverySymbol := by
  unfold Obligations.LoopbackDetectsEverySymbol
  intro policy sym xs r
  obtain ⟨w, hd, hw⟩ := symbol_fills_window sym
  have hmag (k : Fin 64) :
      (smoothAll DemodUnit.reset.mag w)[k].toNat = smooth 0 (symbolRaw sym k.val) := by
    rw [smoothAll_toNat, rawMag_eq_symbolRaw sym hw]
    simp [DemodUnit.reset]
  obtain ⟨hsym, hvalid, hnoise, hsnr⟩ := detect_symbol hmag policy
  have hr : r = (DemodUnit.completeBlock { defaultParams with tiePolicy := policy }
      { DemodUnit.reset with count := 64, win := w }).2 := by rw [← hd]
  rw [hr, completeBlock_record]
  exact ⟨samples_length sym 64 .reset, hsym, hvalid, hnoise, hsnr, BitVec.sub_self 64⟩

end Sys2Proof.Machine
end

section
/-! PROOF. R110, R114, R331: the word a VT_LOAD leaves in ERR_CMD. -/

namespace Sys2Proof

/-- A value that fits in its place, as a number (R114). -/
theorem place_toNat {len lo : Nat} (v : BitVec len) (h : lo + len ≤ 32) :
    (place v lo).toNat = v.toNat <<< lo := by
  have hlt : v.toNat <<< lo < 2 ^ 32 :=
    calc v.toNat <<< lo < 2 ^ (len + lo) := Nat.shiftLeft_lt v.isLt
      _ ≤ 2 ^ 32 := Nat.pow_le_pow_right (by decide) (by omega)
  rw [place, BitVec.toNat_shiftLeft, BitVec.toNat_setWidth_of_le (by omega), Nat.mod_eq_of_lt hlt]

/-- The word of a VT_LOAD: opcode, index and symbol at their weights (R110, R111). -/
theorem encode_vtLoad {idx : Nat} (h : idx ≤ 255) (sym : BitVec 3) :
    encode (.vtLoad idx sym) = BitVec.ofNat 32 (0x30 + idx * 2 ^ 8 + sym.toNat * 2 ^ 16) := by
  have hsym := sym.isLt
  have hidx : (BitVec.ofNat 8 idx).toNat = idx := Nat.mod_eq_of_lt (Nat.lt_succ_of_le h)
  apply BitVec.eq_of_toNat_eq
  calc (encode (.vtLoad idx sym)).toNat
      = 0x30 ||| (idx <<< 8 ||| sym.toNat <<< 16) := by
        simp only [encode, Instr.operandBits, Instr.opcode, BitVec.toNat_or]
        rw [place_toNat _ (by decide), place_toNat _ (by decide), place_toNat _ (by decide), hidx]
        rfl
    _ = sym.toNat <<< 16 ||| (idx <<< 8 ||| 0x30) := by
        rw [Nat.or_comm, Nat.or_comm (idx <<< 8), Nat.or_assoc]
    _ = sym.toNat <<< 16 + (idx <<< 8 + 0x30) := by
        rw [← Nat.shiftLeft_add_eq_or_of_lt (i := 8) (by decide),
          ← Nat.shiftLeft_add_eq_or_of_lt (by omega)]
    _ = (BitVec.ofNat 32 (0x30 + idx * 2 ^ 8 + sym.toNat * 2 ^ 16)).toNat := by
        rw [BitVec.toNat_ofNat]
        omega

namespace Machine

/-- What ERR_CMD reads after a command error (R331). -/
theorem memRead_raiseCmdError_errCmd (s : State) (e : CmdErr) (v : Word) :
    memRead (s.raiseCmdError e v).retire Reg.errCmd.offset =
      if memRead s Reg.err.offset = 0 then v else memRead s Reg.errCmd.offset := by
  have hzero : s.err.err.setWidth 32 = 0 ↔ s.err.err = 0 := by
    rw [← BitVec.toNat_inj, BitVec.toNat_setWidth_of_le (by decide), ← BitVec.toNat_inj]
    rfl
  rw [memRead_retire, memRead_offset, memRead_offset, memRead_offset]
  simp only [read_errCmd, read_err, State.raiseCmdError_err, hzero]

end Machine

end Sys2Proof
end

section
/-! PROOF. R47-R49, R71, R221: what VT_LOAD changes, and what the host reads of the symbol array. -/

namespace Sys2Proof.Machine

/-- Replacing the voter changes no more of the window than its registers that read differently. -/
theorem setVt_frame {changed : Nat → Prop} {s : State} {u : VoterUnit}
    (h : ∀ r : Reg, ¬ changed r.offset → r.read (s.setVt u) = r.read s) :
    Frame changed s (s.setVt u).retire where
  window a ha := (memRead_retire _ a).trans (memRead_eq_of_regs h a ha)
  params := rfl
  pending := rfl
  replies := rfl
  ready := rfl
  readyPlan := rfl

/-- An entry of the symbol array as the host reads it (R49, R71). -/
theorem memRead_vtSym (s : State) {i : Nat} (hi : i < 147) :
    memRead s (0x200 + 4 * i) = s.vt.sym[i].setWidth 32 :=
  memRead_offset s (.vtSym ⟨i, hi⟩)

section Load
variable (s : State) {idx : Nat} (h : idx ≤ 146) (sym : BitVec 3)

/-- The entry that VT_LOAD stores reads as the stored symbol (R221). -/
theorem memRead_vtLoad :
    memRead (s.setVt { s.vt with sym := s.vt.sym.set idx sym (by omega) }).retire (0x200 + 4 * idx) =
      sym.setWidth 32 := by
  rw [memRead_retire, memRead_vtSym _ (Nat.lt_succ_of_le h)]
  simp

/-- VT_LOAD in range changes the entry it stores only (R221). -/
theorem vtLoad_frame :
    Frame (fun a => a = 0x200 + 4 * idx) s
      (s.setVt { s.vt with sym := s.vt.sym.set idx sym (by omega) }).retire := by
  refine setVt_frame fun r hr => ?_
  cases r with
  | vtSym i =>
    have hne : idx ≠ i.val := fun heq => hr (by rw [heq]; rfl)
    simp [hne]
  | _ => rfl

end Load

/-- Settles O37: in range one entry of the array is replaced; out of range the command's own word goes into
the command error. -/
theorem vtLoadStoresOrRaisesRange : Obligations.VtLoadStoresOrRaisesRange := by
  unfold Obligations.VtLoadStoresOrRaisesRange
  intro idx sym s
  refine ⟨fun h => ⟨_, exec_vtLoad_of_le h sym s, memRead_vtLoad s h sym, vtLoad_frame s h sym,
    rfl, rfl, rfl⟩, fun h hle => ?_⟩
  rw [exec_vtLoad_of_gt h, encode_vtLoad hle]
  exact ⟨_, rfl, memRead_raiseCmdError_err s .range _, memRead_raiseCmdError_errCmd s .range _,
    raiseCmdError_frame s .range _, raiseCmdError_quiet s .range _⟩

end Sys2Proof.Machine
end

section
/-! PROOF. R220, R222-R225: the voted word, the number of disagreements, and what VT_RUN does with them. -/

namespace Sys2Proof.Machine

/-- One bit laid into a word of 0s. -/
theorem getLsbD_ofBool_shiftLeft (v : Bool) {w j : Nat} (hj : j < w) (k : Nat) :
    ((BitVec.ofBool v).setWidth w <<< k).getLsbD j = (v && decide (j = k)) := by
  rcases Nat.lt_trichotomy j k with hlt | rfl | hgt
  · simp [hlt, hlt.ne]
  · simp [hj]
  · simp [hgt.ne', Nat.sub_ne_zero_of_lt hgt]

/-- Bits laid one by one into a word: bit j is the start's, or the one laid at j. -/
theorem getLsbD_foldl_or_bit (f : Fin 24 → Bool) (l : List (Fin 24)) (acc : BitVec 24) (j : Fin 24) :
    (l.foldl (fun word b => word ||| (BitVec.ofBool (f b)).setWidth 24 <<< b.val) acc).getLsbD j.val =
      (acc.getLsbD j.val || decide (j ∈ l) && f j) := by
  induction l generalizing acc with
  | nil => simp
  | cons b l ih =>
    rw [List.foldl_cons, ih, BitVec.getLsbD_or, getLsbD_ofBool_shiftLeft _ j.isLt]
    by_cases h : j = b
    · subst h
      cases f j <;> simp
    · simp [h, Fin.val_ne_of_ne h]

section Votes
variable (sym : Vector (BitVec 3) 147)

/-- Bit b of the voted word is the vote on bit b (R222, R224). -/
theorem getLsbD_votedWord (b : Fin 24) : (votedWord sym).getLsbD b.val = votedBit sym b := by
  rw [votedWord, getLsbD_foldl_or_bit]
  simp

/-- The copies of a word bit differ unless all three are equal (R222). -/
theorem copiesDiffer_iff (b : Fin 24) : copiesDiffer sym b = true ↔
    ¬ (voteBit sym b 0 = voteBit sym b 1 ∧ voteBit sym b 1 = voteBit sym b 2) := by
  rw [← Bool.not_eq_false, copiesDiffer]
  simp

/-- The number of disagreements counts the word bits whose copies differ (R222). -/
theorem disagreements_eq_card :
    disagreements sym = (Finset.univ.filter fun b : Fin 24 => copiesDiffer sym b = true).card := by
  simp only [Finset.card_def, Finset.filter_val, Finset.val_univ_fin, Multiset.filter_coe,
    Multiset.coe_card, Bool.decide_eq_true, disagreements]

end Votes

/-- The vote sees the array through `voteBit` only (R223). -/
theorem vote_congr {x y : Vector (BitVec 3) 147} (h : voteBit x = voteBit y) :
    votedWord x = votedWord y ∧ disagreements x = disagreements y := by
  simp only [votedWord, votedBit, disagreements, copiesDiffer, h, and_self]

/-- Three equal copies of a word vote back to it without disagreement (R225). -/
theorem vote_of_equal_copies {sym : Vector (BitVec 3) 147} {w : BitVec 24}
    (h : ∀ b c, voteBit sym b c = w.getLsbD b.val) : votedWord sym = w ∧ disagreements sym = 0 := by
  constructor
  · apply BitVec.eq_of_getLsbD_eq
    intro j hj
    rw [getLsbD_votedWord sym ⟨j, hj⟩, votedBit, h, h, h]
    cases w.getLsbD j <;> rfl
  · simp [disagreements, copiesDiffer, h]

section Run
variable (s : State)

/-- The state after VT_RUN (R222). -/
def State.afterVtRun : State :=
  (s.setVt
    { s.vt with
      word := votedWord s.vt.sym
      errs := BitVec.ofNat 5 (disagreements s.vt.sym) }).retire

/-- What VT_RUN answers (R222). -/
theorem exec_vtRun : exec .vtRun s = .next s.afterVtRun := rfl

/-- VT_WORD after VT_RUN (R47, R222). -/
theorem memRead_afterVtRun_word : memRead s.afterVtRun 0x060 = (votedWord s.vt.sym).setWidth 32 :=
  memRead_offset s.afterVtRun .vtWord

/-- VT_ERRS after VT_RUN, whose five bits hold every count (R48, R222). -/
theorem memRead_afterVtRun_errs : (memRead s.afterVtRun 0x064).toNat = disagreements s.vt.sym :=
  calc (memRead s.afterVtRun 0x064).toNat
      = ((BitVec.ofNat 5 (disagreements s.vt.sym)).setWidth 32).toNat :=
        congrArg BitVec.toNat (memRead_offset s.afterVtRun .vtErrs)
    _ = disagreements s.vt.sym % 2 ^ 5 := by
        rw [BitVec.toNat_setWidth_of_le (by decide), BitVec.toNat_ofNat]
    _ = disagreements s.vt.sym :=
        Nat.mod_eq_of_lt ((disagreements_le s.vt.sym).trans_lt (by decide))

/-- VT_RUN changes VT_WORD and VT_ERRS only (R222). -/
theorem afterVtRun_frame : Frame (fun a => a = 0x060 ∨ a = 0x064) s s.afterVtRun := by
  refine setVt_frame fun r hr => ?_
  cases r with
  | vtWord => exact absurd (.inl rfl) hr
  | vtErrs => exact absurd (.inr rfl) hr
  | _ => rfl

/-- The bit of a copy as the host reads it in VT_SYM (R49, R223). -/
theorem getLsbD_memRead_vtSym (b : Fin 24) (c : Fin 3) :
    (memRead s (0x200 + 4 * (b.val + 49 * c.val))).getLsbD (b.val % 3) = voteBit s.vt.sym b c := by
  have hbit : b.val % 3 < 32 := by omega
  rw [memRead_vtSym s (by omega), BitVec.getLsbD_setWidth, decide_eq_true hbit, Bool.true_and]
  rfl

end Run

/-- Settles O38: the vote on each bit, the count of the differing ones, and the frame, with the copies as the
host reads them. -/
theorem vtRunTakesTheMajority : Obligations.VtRunTakesTheMajority := by
  unfold Obligations.VtRunTakesTheMajority
  intro s
  have hcopy0 (b : Fin 24) :
      (memRead s (0x200 + 4 * b.val)).getLsbD (b.val % 3) = voteBit s.vt.sym b 0 :=
    getLsbD_memRead_vtSym s b 0
  have hcopy1 (b : Fin 24) :
      (memRead s (0x200 + 4 * (b.val + 49))).getLsbD (b.val % 3) = voteBit s.vt.sym b 1 :=
    getLsbD_memRead_vtSym s b 1
  have hcopy2 (b : Fin 24) :
      (memRead s (0x200 + 4 * (b.val + 98))).getLsbD (b.val % 3) = voteBit s.vt.sym b 2 :=
    getLsbD_memRead_vtSym s b 2
  refine ⟨s.afterVtRun, exec_vtRun s, fun b => ?_, ?_, ?_, afterVtRun_frame s, rfl, rfl, rfl⟩
  · have hb : b.val < 32 := by omega
    rw [hcopy0, hcopy1, hcopy2, memRead_afterVtRun_word, BitVec.getLsbD_setWidth, getLsbD_votedWord,
      decide_eq_true hb, Bool.true_and]
    rfl
  · rw [memRead_afterVtRun_word, BitVec.toNat_setWidth_of_le (by decide)]
    exact (votedWord s.vt.sym).isLt
  · simp only [hcopy0, hcopy1, hcopy2, ← copiesDiffer_iff]
    exact (memRead_afterVtRun_errs s).trans (disagreements_eq_card s.vt.sym)

/-- Settles O39: `voteBit` is all the vote sees of the array. -/
theorem voterReadsOnlyItsBits : Obligations.VoterReadsOnlyItsBits := by
  unfold Obligations.VoterReadsOnlyItsBits
  intro s ta tb x y h hx hy
  have hbits : voteBit x = voteBit y := funext fun b => funext fun c => h b c
  obtain ⟨hword, herrs⟩ := vote_congr hbits
  cases (exec_vtRun _).symm.trans hx
  cases (exec_vtRun _).symm.trans hy
  constructor
  · rw [memRead_afterVtRun_word, memRead_afterVtRun_word]
    exact congrArg (BitVec.setWidth 32) hword
  · apply BitVec.eq_of_toNat_eq
    rw [memRead_afterVtRun_errs, memRead_afterVtRun_errs]
    exact herrs

/-- Settles O40: the fill puts the word's bit where each copy is read. -/
theorem voterInvertsTheFill : Obligations.VoterInvertsTheFill := by
  unfold Obligations.VoterInvertsTheFill
  intro w s hfill
  have hcopies (b : Fin 24) (c : Fin 3) : voteBit s.vt.sym b c = w.getLsbD b.val := by
    rw [voteBit, hfill, getLsbD_ofBool_shiftLeft _ (Nat.mod_lt _ (by decide))]
    simp
  obtain ⟨hword, herrs⟩ := vote_of_equal_copies hcopies
  exact ⟨s.afterVtRun, exec_vtRun s, by rw [memRead_afterVtRun_word, hword],
    BitVec.eq_of_toNat_eq ((memRead_afterVtRun_errs s).trans herrs)⟩

end Sys2Proof.Machine
end

section
/-! PROOF. R12: `popcount` of sums, halves and complements of words, and induction over a word's 1 bits. -/

namespace Sys2Proof.Machine

section Popcount
variable {w : Nat}

/-- `popcount` adds up the bits of a word (R12). -/
theorem popcount_eq_sum (v : BitVec w) : popcount v = ∑ i ∈ Finset.range w, (v.getLsbD i).toNat := by
  have hcard : popcount v = ((Finset.range w).filter fun i => v.getLsbD i = true).card := by
    simp only [Finset.card_def, Finset.filter_val, Finset.range_val, Multiset.range, Multiset.filter_coe,
      Multiset.coe_card, Bool.decide_eq_true, popcount]
  rw [hcard, Finset.card_filter]
  refine Finset.sum_congr rfl fun i _ => ?_
  cases v.getLsbD i <;> rfl

/-- `popcount` is the library's population count. -/
theorem popcount_eq_cpop (v : BitVec w) : popcount v = v.cpop.toNat := by
  have hsum (n : Nat) : v.cpopNatRec n 0 = ∑ i ∈ Finset.range n, (v.getLsbD i).toNat := by
    induction n with
    | zero => rfl
    | succ n ih => rw [BitVec.cpopNatRec_succ, BitVec.cpopNatRec_add, ih, Finset.sum_range_succ]
  rw [BitVec.toNat_cpop, hsum, popcount_eq_sum]

/-- The 1s that two words share cancel in their sum. -/
theorem popcount_xor (a b : BitVec w) :
    popcount (a ^^^ b) + 2 * popcount (a &&& b) = popcount a + popcount b := by
  simp only [popcount_eq_sum, Finset.mul_sum, ← Finset.sum_add_distrib]
  refine Finset.sum_congr rfl fun i _ => ?_
  rw [BitVec.getLsbD_xor, BitVec.getLsbD_and]
  cases a.getLsbD i <;> cases b.getLsbD i <;> rfl

theorem popcount_le (v : BitVec w) : popcount v ≤ w :=
  (List.length_filter_le _ _).trans_eq List.length_range

@[simp] theorem popcount_zero : popcount (0#w) = 0 := by simp [popcount]

theorem popcount_eq_zero {v : BitVec w} : popcount v = 0 ↔ v = 0#w := by
  refine ⟨fun h => BitVec.eq_of_getLsbD_eq fun i hi => ?_, fun h => h ▸ popcount_zero⟩
  have hnil := List.eq_nil_of_length_eq_zero h
  simpa using List.filter_eq_nil_iff.mp hnil i (List.mem_range.mpr hi)

/-- The two halves of a word are counted apart. -/
theorem popcount_append {n : Nat} (hi : BitVec w) (lo : BitVec n) :
    popcount (hi ++ lo) = popcount hi + popcount lo := by
  simp only [popcount_eq_cpop, BitVec.toNat_cpop_append]

theorem popcount_not (v : BitVec w) : popcount (~~~v) = w - popcount v := by
  simp only [popcount_eq_cpop, BitVec.toNat_cpop_not]

theorem popcount_unit {i : Nat} (h : i < w) : popcount (1#w <<< i) = 1 := by
  rw [← BitVec.twoPow_eq, popcount_eq_sum, Finset.sum_eq_single_of_mem i (Finset.mem_range.mpr h)]
  · simp [h]
  · intro j _ hj
    simp [hj.symm]

/-- A word that is not 0 has a 1 bit, and one 1 fewer without it. -/
theorem exists_unit_xor {v : BitVec w} (h : v ≠ 0#w) :
    ∃ i < w, ∃ u, v = 1#w <<< i ^^^ u ∧ popcount v = popcount u + 1 := by
  have hpos : 0 < popcount v := Nat.pos_of_ne_zero (mt popcount_eq_zero.mp h)
  obtain ⟨i, hi⟩ := List.exists_mem_of_length_pos hpos
  obtain ⟨hw, hbit⟩ := List.mem_filter.mp hi
  have hiw := List.mem_range.mp hw
  refine ⟨i, hiw, 1#w <<< i ^^^ v, by simp, ?_⟩
  have hand : 1#w <<< i &&& v = 1#w <<< i := by
    rw [← BitVec.twoPow_eq, BitVec.twoPow_and, if_pos hbit]
  have := popcount_xor (1#w <<< i) v
  rw [hand, popcount_unit hiw] at this
  omega

/-- Induction over the 1 bits of a word. -/
theorem unit_xor_induction {P : BitVec w → Prop} (zero : P 0#w)
    (step : ∀ i < w, ∀ u, P u → P (1#w <<< i ^^^ u)) (v : BitVec w) : P v := by
  induction hn : popcount v generalizing v with
  | zero => rwa [popcount_eq_zero.mp hn]
  | succ n ih =>
    obtain ⟨i, hi, u, rfl, hcount⟩ := exists_unit_xor fun h : v = 0#w => by simp [h] at hn
    exact step i hi u (ih u (by omega))

end Popcount

end Sys2Proof.Machine
end

section
/-! PROOF. R240, R241, R243: the parity table is linear, and the codewords are the words of syndrome 0. -/

namespace Sys2Proof.Machine

/-- One row added to a sum of rows, if the info word selects it (R241). -/
def addRow (rows : Vector (BitVec 12) 12) (info acc : BitVec 12) (i : Fin 12) : BitVec 12 :=
  if info.getLsbD i.val then acc ^^^ rows[i] else acc

theorem golayParity_eq_foldl (rows : Vector (BitVec 12) 12) (info : BitVec 12) :
    golayParity rows info = (List.finRange 12).foldl (addRow rows info) 0#12 := rfl

/-- What two info words select adds up to what their sum selects. -/
theorem addRow_xor (rows : Vector (BitVec 12) 12) (a b x y : BitVec 12) (i : Fin 12) :
    addRow rows (a ^^^ b) (x ^^^ y) i = addRow rows a x i ^^^ addRow rows b y i := by
  have hcancel : (x ^^^ rows[i]) ^^^ (y ^^^ rows[i]) = x ^^^ y := by
    calc (x ^^^ rows[i]) ^^^ (y ^^^ rows[i]) = (x ^^^ y) ^^^ (rows[i] ^^^ rows[i]) := by ac_rfl
      _ = x ^^^ y := by rw [BitVec.xor_self, BitVec.xor_zero]
  simp only [addRow, BitVec.getLsbD_xor]
  cases a.getLsbD i.val <;> cases b.getLsbD i.val
  · rfl
  · exact BitVec.xor_assoc x y _
  · change x ^^^ y ^^^ rows[i] = x ^^^ rows[i] ^^^ y
    ac_rfl
  · exact hcancel.symm

theorem foldl_addRow_xor (rows : Vector (BitVec 12) 12) (a b : BitVec 12) (l : List (Fin 12))
    (x y : BitVec 12) :
    l.foldl (addRow rows (a ^^^ b)) (x ^^^ y) =
      l.foldl (addRow rows a) x ^^^ l.foldl (addRow rows b) y := by
  induction l generalizing x y with
  | nil => rfl
  | cons i l ih => rw [List.foldl_cons, List.foldl_cons, List.foldl_cons, addRow_xor, ih]

/-- A word with one 1 selects that row, if it is among the rows looked at. -/
theorem foldl_addRow_unit (rows : Vector (BitVec 12) 12) (i : Fin 12) {l : List (Fin 12)} (hl : l.Nodup)
    (x : BitVec 12) :
    l.foldl (addRow rows (1#12 <<< i.val)) x = if i ∈ l then x ^^^ rows[i] else x := by
  induction l generalizing x with
  | nil => rfl
  | cons j l ih =>
    obtain ⟨hj, hl⟩ := List.nodup_cons.mp hl
    rw [List.foldl_cons, ih hl, addRow, ← BitVec.twoPow_eq, BitVec.getLsbD_twoPow]
    by_cases h : i = j
    · subst h
      simp [hj]
    · simp [h, Fin.val_ne_of_ne h]

section Code
variable (rows : Vector (BitVec 12) 12)

/-- GOLAY_PARITY is linear (R241). -/
theorem golayParity_xor (a b : BitVec 12) :
    golayParity rows (a ^^^ b) = golayParity rows a ^^^ golayParity rows b :=
  foldl_addRow_xor rows a b (List.finRange 12) 0#12 0#12

/-- The rows are GOLAY_PARITY at the words with one 1 (R241). -/
theorem golayParity_unit (i : Fin 12) : golayParity rows (1#12 <<< i.val) = rows[i] := by
  rw [golayParity_eq_foldl, foldl_addRow_unit rows i (List.nodup_finRange 12), if_pos (List.mem_finRange i),
    BitVec.zero_xor]

@[simp] theorem golayParity_zero : golayParity rows 0#12 = 0#12 := by
  simpa using golayParity_xor rows 0#12 0#12

@[simp] theorem infoOf_golayCodeword (info : BitVec 12) : infoOf (golayCodeword rows info) = info :=
  BitVec.extractLsb'_append_eq_right

@[simp] theorem parityOf_golayCodeword (info : BitVec 12) :
    parityOf (golayCodeword rows info) = golayParity rows info :=
  BitVec.extractLsb'_append_eq_left

@[simp] theorem infoOf_xor (x y : BitVec 24) : infoOf (x ^^^ y) = infoOf x ^^^ infoOf y :=
  BitVec.extractLsb'_xor

@[simp] theorem parityOf_xor (x y : BitVec 24) : parityOf (x ^^^ y) = parityOf x ^^^ parityOf y :=
  BitVec.extractLsb'_xor

/-- A word is its two halves (R240). -/
theorem parityOf_append_infoOf (r : BitVec 24) : (parityOf r ++ infoOf r : BitVec (12 + 12)) = r :=
  BitVec.extractLsb'_append_extractLsb' (w := 12) (len := 12)

/-- The code is linear (R241). -/
theorem golayCodeword_xor (a b : BitVec 12) :
    golayCodeword rows (a ^^^ b) = golayCodeword rows a ^^^ golayCodeword rows b := by
  rw [golayCodeword, golayParity_xor]
  exact BitVec.xor_append.symm

@[simp] theorem golayCodeword_zero : golayCodeword rows 0#12 = 0#24 := by
  rw [golayCodeword, golayParity_zero]
  rfl

/-- Different info words have different codewords (R240). -/
theorem golayCodeword_ne_zero {info : BitVec 12} (h : info ≠ 0#12) :
    golayCodeword rows info ≠ 0#24 := fun hc =>
  h (by rw [← infoOf_golayCodeword rows info, hc]; rfl)

/-- The syndrome is linear (R243). -/
theorem syndrome_xor (x y : BitVec 24) : syndrome rows (x ^^^ y) = syndrome rows x ^^^ syndrome rows y := by
  simp only [syndrome, parityOf_xor, infoOf_xor, golayParity_xor]
  ac_rfl

/-- A codeword has syndrome 0 (R243). -/
@[simp] theorem syndrome_golayCodeword (info : BitVec 12) : syndrome rows (golayCodeword rows info) = 0#12 := by
  simp [syndrome]

@[simp] theorem syndrome_zero : syndrome rows 0#24 = 0#12 := by
  simpa using syndrome_golayCodeword rows 0#12

/-- The syndrome of a received word is that of the errors (R243). -/
theorem syndrome_golayCodeword_xor (info : BitVec 12) (e : BitVec 24) :
    syndrome rows (golayCodeword rows info ^^^ e) = syndrome rows e := by
  rw [syndrome_xor, syndrome_golayCodeword, BitVec.zero_xor]

/-- A word of syndrome 0 is the codeword of its info (R243). -/
theorem eq_golayCodeword_of_syndrome_eq_zero {r : BitVec 24} (h : syndrome rows r = 0#12) :
    r = golayCodeword rows (infoOf r) := by
  have hpar : parityOf r = golayParity rows (infoOf r) := BitVec.xor_eq_zero_iff.mp h
  rw [golayCodeword, ← hpar, parityOf_append_infoOf]

/-- Two words of the same syndrome differ by a codeword (R243). -/
theorem exists_golayCodeword_of_syndrome_eq {x y : BitVec 24} (h : syndrome rows x = syndrome rows y) :
    ∃ info, x ^^^ y = golayCodeword rows info :=
  ⟨_, eq_golayCodeword_of_syndrome_eq_zero rows ((syndrome_xor rows x y).trans (h ▸ BitVec.xor_self))⟩

end Code

/-- Settles O42: both the table and the syndrome are linear. -/
theorem syndromeDependsOnTheErrorAlone : Obligations.SyndromeDependsOnTheErrorAlone := by
  unfold Obligations.SyndromeDependsOnTheErrorAlone
  exact fun rows => ⟨golayParity_xor rows, golayParity_unit rows, syndrome_golayCodeword rows,
    syndrome_golayCodeword_xor rows⟩

end Sys2Proof.Machine
end

section
/-! PROOF. R242: the enumerated error patterns are the words of weight 1, 2 and 3, each once. -/

namespace Sys2Proof.Machine

/-- The positions of a word's 1s, in ascending order. -/
def onePositions (e : BitVec 24) : List Nat :=
  (List.range 24).filter fun i => e.getLsbD i

theorem length_onePositions (e : BitVec 24) : (onePositions e).length = popcount e := rfl

theorem onePositions_sublist (e : BitVec 24) : (onePositions e).Sublist (List.range 24) :=
  List.filter_sublist

@[simp] theorem mem_onePositions {e : BitVec 24} {i : Nat} : i ∈ onePositions e ↔ e.getLsbD i = true := by
  simp only [onePositions, List.mem_filter, List.mem_range, and_iff_right_iff_imp]
  exact BitVec.lt_of_getLsbD

/-- The 1s of a pattern are the positions it is built from (R242). -/
theorem onePositions_patternOf {ps : List Nat} (h : ps.Sublist (List.range 24)) :
    onePositions (patternOf ps) = ps := by
  have hsorted := (List.pairwise_lt_range (n := 24)).sublist h
  refine (List.pairwise_lt_range.sublist (onePositions_sublist _)).eq_of_mem_iff hsorted fun i => ?_
  rw [mem_onePositions, patternOf, BitVec.getLsbD_ofNat, Bool.and_eq_true, ← Nat.mem_bitIndices,
    Nat.bitIndices_sum_map_two_pow hsorted.sortedLT]
  simpa using fun hi => List.mem_range.mp (h.subset hi)

/-- Every word is the pattern of its 1s (R242). -/
theorem patternOf_onePositions (e : BitVec 24) : patternOf (onePositions e) = e := by
  refine BitVec.eq_of_getLsbD_eq fun i _ => Bool.eq_iff_iff.mpr ?_
  rw [← mem_onePositions, onePositions_patternOf (onePositions_sublist e), mem_onePositions]

/-- One word's 1s lie among another's. -/
theorem onePositions_sublist_iff {e c : BitVec 24} :
    (onePositions e).Sublist (onePositions c) ↔ e &&& c = e := by
  constructor
  · intro h
    refine BitVec.eq_of_getLsbD_eq fun i _ => ?_
    have hbit : e.getLsbD i = true → c.getLsbD i = true := fun hi =>
      mem_onePositions.mp (h.subset (mem_onePositions.mpr hi))
    simpa using hbit
  · intro h
    refine List.monotone_filter_right _ fun i hi => ?_
    rw [← h, BitVec.getLsbD_and] at hi
    exact Bool.and_elim_right hi

/-- The enumeration of position sets lists the sublists of a length (R242). -/
theorem positionSets_perm_sublistsLen (w : Nat) (ps : List Nat) :
    (positionSets w ps).Perm (ps.sublistsLen w) := by
  induction ps generalizing w with
  | nil => cases w <;> rfl
  | cons p ps ih =>
    cases w with
    | zero => rfl
    | succ w =>
      rw [positionSets, List.sublistsLen_succ_cons]
      exact (((ih w).map _).append (ih (w + 1))).trans List.perm_append_comm

/-- The patterns of `w` 1s at given positions, in the order of R242. -/
def patternsOn (w : Nat) (ps : List Nat) : List (BitVec 24) :=
  (positionSets w ps).map patternOf

theorem length_patternsOn (w : Nat) (ps : List Nat) : (patternsOn w ps).length = ps.length.choose w := by
  rw [patternsOn, List.length_map, (positionSets_perm_sublistsLen w ps).length_eq, List.length_sublistsLen]

section Patterns
variable {w : Nat} {ps : List Nat} (h : ps.Sublist (List.range 24))
include h

theorem mem_patternsOn {e : BitVec 24} :
    e ∈ patternsOn w ps ↔ popcount e = w ∧ (onePositions e).Sublist ps := by
  simp only [patternsOn, List.mem_map, (positionSets_perm_sublistsLen w ps).mem_iff, List.mem_sublistsLen]
  constructor
  · rintro ⟨qs, ⟨hsub, rfl⟩, rfl⟩
    rw [← length_onePositions, onePositions_patternOf (hsub.trans h)]
    exact ⟨rfl, hsub⟩
  · rintro ⟨rfl, hsub⟩
    exact ⟨_, ⟨hsub, rfl⟩, patternOf_onePositions e⟩

theorem nodup_patternsOn : (patternsOn w ps).Nodup := by
  have hperm := positionSets_perm_sublistsLen w ps
  refine (hperm.nodup_iff.mpr (List.nodup_sublistsLen w (List.nodup_range.sublist h))).map_on
    fun qs hqs rs hrs heq => ?_
  have hsub {ts : List Nat} (hts : ts ∈ positionSets w ps) : ts.Sublist (List.range 24) :=
    (sublist_of_mem_positionSets hts).1.trans h
  rw [← onePositions_patternOf (hsub hqs), heq, onePositions_patternOf (hsub hrs)]

end Patterns

/-- The enumeration goes weight by weight (R242). -/
theorem errorPatterns_eq : errorPatterns = [1, 2, 3].flatMap fun w => patternsOn w (List.range 24) :=
  List.map_flatMap

theorem mem_errorPatterns {e : BitVec 24} : e ∈ errorPatterns ↔ 1 ≤ popcount e ∧ popcount e ≤ 3 := by
  have hw : popcount e ∈ [1, 2, 3] ↔ 1 ≤ popcount e ∧ popcount e ≤ 3 := by
    simp only [List.mem_cons, List.not_mem_nil, or_false]
    omega
  rw [errorPatterns_eq, ← hw]
  simp [mem_patternsOn (List.Sublist.refl _), onePositions_sublist]

theorem length_errorPatterns : errorPatterns.length = 2324 := by
  simp [errorPatterns_eq, length_patternsOn, Nat.choose]

theorem nodup_errorPatterns : errorPatterns.Nodup := by
  rw [errorPatterns_eq, List.nodup_flatMap]
  refine ⟨fun w _ => nodup_patternsOn (List.Sublist.refl _), ?_⟩
  refine List.Pairwise.imp (fun hne e hv hw => hne ?_) (by decide : [1, 2, 3].Nodup)
  rw [← ((mem_patternsOn (List.Sublist.refl _)).mp hv).1, ((mem_patternsOn (List.Sublist.refl _)).mp hw).1]

end Sys2Proof.Machine
end

section
/-! PROOF. R242: SYNDROME_ROM, searched and built. -/

namespace Sys2Proof.Machine

section Rom
variable (rows : Vector (BitVec 12) 12)

/-- SYNDROME_ROM with one more pattern looked at, first discovered wins (R242). -/
def enterPattern (rom : List (BitVec 12 × BitVec 24)) (e : BitVec 24) : List (BitVec 12 × BitVec 24) :=
  if syndrome rows e ≠ 0 ∧ rom.lookup (syndrome rows e) = none then rom ++ [(syndrome rows e, e)] else rom

theorem buildSyndromeRom_eq_foldl :
    buildSyndromeRom rows = errorPatterns.foldl (enterPattern rows) [] := rfl

/-- The search among some of the patterns. -/
def findPattern (syn : BitVec 12) (es : List (BitVec 24)) : Option (BitVec 24) :=
  if syn = 0 then none else es.find? fun e => syndrome rows e == syn

theorem findPattern_cons (syn : BitVec 12) (e : BitVec 24) (es : List (BitVec 24)) :
    findPattern rows syn (e :: es) = (findPattern rows syn [e]).or (findPattern rows syn es) := by
  by_cases h : syn = 0
  · simp [findPattern, h]
  · simp only [findPattern, if_neg h]
    exact List.find?_append (xs := [e])

/-- An entry of the table is not replaced, and a new one is the pattern looked at. -/
theorem lookup_enterPattern (rom : List (BitVec 12 × BitVec 24)) (e : BitVec 24) (syn : BitVec 12) :
    (enterPattern rows rom e).lookup syn = (rom.lookup syn).or (findPattern rows syn [e]) := by
  by_cases hsyn : syndrome rows e = syn
  · subst hsyn
    by_cases h0 : syndrome rows e = 0#12
    · simp [enterPattern, findPattern, h0]
    · cases hl : rom.lookup (syndrome rows e) with
      | none => simp [enterPattern, findPattern, h0, hl, List.lookup_append]
      | some e' => simp [enterPattern, hl]
  · have hbeq : (syn == syndrome rows e) = false := beq_false_of_ne (Ne.symm hsyn)
    have hfind : findPattern rows syn [e] = none := by simp [findPattern, hsyn]
    rw [hfind, Option.or_none, enterPattern]
    split
    · simp [List.lookup_append, List.lookup_cons, hbeq]
    · rfl

theorem lookup_foldl_enterPattern (es : List (BitVec 24)) (rom : List (BitVec 12 × BitVec 24))
    (syn : BitVec 12) :
    (es.foldl (enterPattern rows) rom).lookup syn = (rom.lookup syn).or (findPattern rows syn es) := by
  induction es generalizing rom with
  | nil => simp [findPattern]
  | cons e es ih => rw [List.foldl_cons, ih, lookup_enterPattern, Option.or_assoc, ← findPattern_cons]

/-- Patterns of different nonzero syndromes all get an entry (R242). -/
theorem foldl_enterPattern_of_nodup {es : List (BitVec 24)} (hzero : ∀ e ∈ es, syndrome rows e ≠ 0)
    (hnodup : (es.map (syndrome rows)).Nodup) :
    es.foldl (enterPattern rows) [] = es.map fun e => (syndrome rows e, e) := by
  induction es using List.reverseRecOn with
  | nil => rfl
  | append_singleton es e ih =>
    rw [List.map_append, List.nodup_append] at hnodup
    obtain ⟨hes, -, hnew⟩ := hnodup
    have hlookup : (es.map fun e => (syndrome rows e, e)).lookup (syndrome rows e) = none := by
      rw [List.lookup_eq_none_iff]
      intro p hp
      obtain ⟨d, hd, rfl⟩ := List.mem_map.mp hp
      have hne := hnew _ (List.mem_map_of_mem hd) (syndrome rows e) (by simp)
      exact bne_iff_ne.mpr hne.symm
    rw [List.foldl_append, ih (fun d hd => hzero d (List.mem_append_left _ hd)) hes, List.map_append]
    exact if_pos ⟨hzero e (by simp), hlookup⟩

/-- An entry of SYNDROME_ROM is a word of weight 1 to 3 with the syndrome (R242). -/
theorem syndromeRom_some {syn : BitVec 12} {e : BitVec 24} (h : syndromeRom rows syn = some e) :
    1 ≤ popcount e ∧ popcount e ≤ 3 ∧ syndrome rows e = syn := by
  have hpop := mem_errorPatterns.mp (mem_errorPatterns_of_syndromeRom h)
  rw [syndromeRom] at h
  split at h
  · cases h
  · exact ⟨hpop.1, hpop.2, by simpa using List.find?_some h⟩

/-- A syndrome other than 0 has no entry exactly if no word of weight 1 to 3 has it (R242). -/
theorem syndromeRom_eq_none_iff {syn : BitVec 12} (h : syn ≠ 0) :
    syndromeRom rows syn = none ↔
      ∀ e : BitVec 24, 1 ≤ popcount e → popcount e ≤ 3 → syndrome rows e ≠ syn := by
  rw [syndromeRom, if_neg h, List.find?_eq_none]
  simp only [mem_errorPatterns, beq_iff_eq, and_imp, ne_eq]

end Rom

/-- Settles O44: a table entered pattern by pattern answers as the search among the patterns does. -/
theorem syndromeSearchIsTheBuiltTable : Obligations.SyndromeSearchIsTheBuiltTable := by
  unfold Obligations.SyndromeSearchIsTheBuiltTable
  intro rows syn
  rw [buildSyndromeRom_eq_foldl, lookup_foldl_enterPattern]
  rfl

end Sys2Proof.Machine
end

section
/-! PROOF. R50, R51, R244, R245: what the host reads after GOL_ENC and GOL_DEC, and what they leave alone. -/

namespace Sys2Proof.Machine

section Unit
variable (s : State) (res : BitVec 24) (stat : GolStat)

/-- GOL_RES as the host reads it (R50, R71). -/
theorem memRead_setGol_res : memRead (s.setGol { res, stat }).retire 0x070 = res.setWidth 32 :=
  memRead_offset (s.setGol { res, stat }).retire .golRes

/-- GOL_STAT as the host reads it (R51, R71). -/
theorem memRead_setGol_stat : memRead (s.setGol { res, stat }).retire 0x074 = stat.toWord :=
  memRead_offset (s.setGol { res, stat }).retire .golStat

/-- Replacing the Golay unit changes GOL_RES and GOL_STAT only (R71). -/
theorem setGol_frame (u : GolayUnit) : Frame (fun a => a = 0x070 ∨ a = 0x074) s (s.setGol u).retire where
  window a ha := by
    rw [memRead_retire]
    refine memRead_eq_of_regs (changed := fun a => a = 0x070 ∨ a = 0x074) (fun r hr => ?_) a ha
    cases r with
    | golRes => exact absurd (.inl rfl) hr
    | golStat => exact absurd (.inr rfl) hr
    | _ => rfl
  params := rfl
  pending := rfl
  replies := rfl
  ready := rfl
  readyPlan := rfl

end Unit

/-- A codeword as a number of 32 bits: info and parity in their halves (R240). -/
theorem setWidth_golayCodeword (rows : Vector (BitVec 12) 12) (info : BitVec 12) :
    (golayCodeword rows info).setWidth 32 =
      info.setWidth 32 ||| (golayParity rows info).setWidth 32 <<< 12 := by
  rw [golayCodeword, BitVec.setWidth_append_eq_shiftLeft_setWidth_or, BitVec.or_comm]

/-- Settles O41: the codeword in GOL_RES, and a GOL_STAT of 0. -/
theorem golEncWritesTheCodeword : Obligations.GolEncWritesTheCodeword := by
  unfold Obligations.GolEncWritesTheCodeword
  intro info s
  exact ⟨_, rfl, (memRead_setGol_res s _ _).trans (setWidth_golayCodeword _ info),
    memRead_setGol_stat s _ _, setGol_frame s _, rfl, rfl, rfl⟩

section Decode
variable (s : State) (rx : BitVec 24)

/-- The state after GOL_DEC (R245). -/
def State.afterGolDec : State :=
  (s.setGol (golayDecode s.params.golayRows rx)).retire

theorem exec_golDec : exec (.golDec rx) s = .next (s.afterGolDec rx) := rfl

/-- A corrected count as the host reads it, with OP set (R51). -/
theorem toWord_corrected {n : Nat} (h : n ≤ 3) :
    GolStat.toWord { nerr := BitVec.ofNat 4 n, uncorr := false, op := true } =
      BitVec.ofNat 32 n ||| 0x00010000 := by
  interval_cases n <;> rfl

theorem setWidth_infoOf (r : BitVec 24) : ((infoOf r).setWidth 24).setWidth 32 = (infoOf r).setWidth 32 :=
  by simp

/-- GOL_DEC of a word of syndrome 0 (R245). -/
theorem memRead_afterGolDec_of_codeword (h : syndrome s.params.golayRows rx = 0) :
    memRead (s.afterGolDec rx) 0x070 = (infoOf rx).setWidth 32 ∧
      memRead (s.afterGolDec rx) 0x074 = 0x00010000 := by
  simp only [State.afterGolDec, golayDecode, if_pos h, memRead_setGol_res, memRead_setGol_stat]
  exact ⟨setWidth_infoOf rx, rfl⟩

/-- GOL_DEC of a word whose syndrome has an entry in SYNDROME_ROM (R245). -/
theorem memRead_afterGolDec_of_some {e : BitVec 24}
    (h : syndromeRom s.params.golayRows (syndrome s.params.golayRows rx) = some e) :
    memRead (s.afterGolDec rx) 0x070 = (infoOf (rx ^^^ e)).setWidth 32 ∧
      memRead (s.afterGolDec rx) 0x074 = BitVec.ofNat 32 (popcount e) ||| 0x00010000 := by
  have hne : syndrome s.params.golayRows rx ≠ 0 := fun h0 => by simp [syndromeRom, h0] at h
  obtain ⟨-, hle, -⟩ := syndromeRom_some _ h
  simp only [State.afterGolDec, golayDecode, if_neg hne, h, memRead_setGol_res, memRead_setGol_stat]
  exact ⟨setWidth_infoOf _, toWord_corrected hle⟩

/-- GOL_DEC of a word whose syndrome has no entry in SYNDROME_ROM (R245). -/
theorem memRead_afterGolDec_of_none (hne : syndrome s.params.golayRows rx ≠ 0)
    (h : syndromeRom s.params.golayRows (syndrome s.params.golayRows rx) = none) :
    memRead (s.afterGolDec rx) 0x070 = (infoOf rx).setWidth 32 ∧
      memRead (s.afterGolDec rx) 0x074 = 0x00010100 := by
  simp only [State.afterGolDec, golayDecode, if_neg hne, h, memRead_setGol_res, memRead_setGol_stat]
  exact ⟨setWidth_infoOf rx, rfl⟩

end Decode

/-- Settles O43: SYNDROME_ROM has an entry for a syndrome other than 0 exactly if a word of weight 1 to 3
has it. -/
theorem golDecHasThreeOutcomes : Obligations.GolDecHasThreeOutcomes := by
  unfold Obligations.GolDecHasThreeOutcomes
  intro rx s
  refine ⟨_, exec_golDec s rx, setGol_frame s _, ⟨rfl, rfl, rfl⟩, memRead_afterGolDec_of_codeword s rx,
    fun hne ⟨d, hd1, hd3, hd⟩ => ?_, fun hne hall => ?_⟩
  · cases hrom : syndromeRom s.params.golayRows (syndrome s.params.golayRows rx) with
    | none => exact absurd hd ((syndromeRom_eq_none_iff _ hne).mp hrom d hd1 hd3)
    | some e =>
      obtain ⟨h1, h3, hsyn⟩ := syndromeRom_some _ hrom
      exact ⟨e, rfl, h1, h3, hsyn, memRead_afterGolDec_of_some s rx hrom⟩
  · have hrom := (syndromeRom_eq_none_iff _ hne).mpr hall
    exact ⟨hrom, memRead_afterGolDec_of_none s rx hne hrom⟩

end Sys2Proof.Machine
end

section
/-! PROOF. R246: the default code is doubly even, and no codeword has weight 4. What the listed rows are is
evaluated row by row; the rest follows by linearity. -/

namespace Sys2Proof.Machine

/-- Each default row has weight 7, so that its codeword has weight 8. -/
theorem popcount_defaultRow : ∀ i : Fin 12, popcount defaultGolayRows[i] = 7 := by decide +kernel

/-- Two default rows share 2 or 4 of their 1s. -/
theorem popcount_defaultRow_and : ∀ i j : Fin 12, i ≠ j →
    popcount (defaultGolayRows[i] &&& defaultGolayRows[j]) = 2 ∨
      popcount (defaultGolayRows[i] &&& defaultGolayRows[j]) = 4 := by decide +kernel

/-- The columns of the table whose rows are the default rows. -/
def defaultGolayColumns : Vector (BitVec 12) 12 :=
  #v[0x49F, 0x93E, 0x6E3, 0xDC6, 0xF13, 0xAB9, 0x1ED, 0x3DA, 0x7B4, 0xF68, 0xA4F, 0xC75]

/-- Each column has weight 7. -/
theorem popcount_defaultColumn : ∀ i : Fin 12, popcount defaultGolayColumns[i] = 7 := by decide +kernel

/-- The columns take each default row back to the info word it belongs to. -/
theorem golayParity_columns_defaultRow : ∀ i : Fin 12,
    golayParity defaultGolayColumns defaultGolayRows[i] = 1#12 <<< i.val := by decide +kernel

/-- `&` distributes over the sum of two words. -/
theorem xor_and_distrib {w : Nat} (a b c : BitVec w) : (a ^^^ b) &&& c = (a &&& c) ^^^ (b &&& c) := by
  refine BitVec.eq_of_getLsbD_eq fun i _ => ?_
  simp [Bool.and_xor_distrib_right]

/-- Two codewords of single rows share an even number of 1s. -/
theorem popcount_unit_and_unit (i j : Fin 12) :
    popcount (golayCodeword defaultGolayRows (1#12 <<< i.val) &&&
      golayCodeword defaultGolayRows (1#12 <<< j.val)) % 2 = 0 := by
  rw [golayCodeword, golayCodeword, golayParity_unit, golayParity_unit, BitVec.and_append, popcount_append]
  by_cases h : i = j
  · subst h
    rw [BitVec.and_self, BitVec.and_self, popcount_defaultRow, popcount_unit i.isLt]
  · have hunits : 1#12 <<< i.val &&& 1#12 <<< j.val = 0#12 := by
      rw [← BitVec.twoPow_eq, ← BitVec.twoPow_eq, BitVec.and_twoPow, BitVec.getLsbD_twoPow]
      simp [Fin.val_ne_of_ne h]
    have hrows := popcount_defaultRow_and i j h
    rw [hunits, popcount_zero]
    omega

/-- A word that shares an even number of 1s with each single row's codeword does so with every codeword. -/
theorem popcount_and_golayCodeword {x : BitVec 24}
    (h : ∀ i : Fin 12, popcount (golayCodeword defaultGolayRows (1#12 <<< i.val) &&& x) % 2 = 0)
    (a : BitVec 12) : popcount (golayCodeword defaultGolayRows a &&& x) % 2 = 0 := by
  induction a using unit_xor_induction with
  | zero => simp
  | step i hi u ih =>
    have hsum := popcount_xor (golayCodeword defaultGolayRows (1#12 <<< i) &&& x)
      (golayCodeword defaultGolayRows u &&& x)
    have hunit : popcount (golayCodeword defaultGolayRows (1#12 <<< i) &&& x) % 2 = 0 := h ⟨i, hi⟩
    rw [golayCodeword_xor, xor_and_distrib]
    omega

/-- The default code is self-orthogonal. -/
theorem popcount_golayCodeword_and (a b : BitVec 12) :
    popcount (golayCodeword defaultGolayRows a &&& golayCodeword defaultGolayRows b) % 2 = 0 := by
  refine popcount_and_golayCodeword (fun i => ?_) a
  rw [BitVec.and_comm]
  exact popcount_and_golayCodeword (fun j => popcount_unit_and_unit j i) b

/-- The default code is doubly even. -/
theorem popcount_golayCodeword_mod (a : BitVec 12) :
    popcount (golayCodeword defaultGolayRows a) % 4 = 0 := by
  induction a using unit_xor_induction with
  | zero => simp
  | step i hi u ih =>
    have hunit : popcount (golayCodeword defaultGolayRows (1#12 <<< i)) = 8 := by
      rw [golayCodeword, popcount_append, golayParity_unit defaultGolayRows ⟨i, hi⟩, popcount_defaultRow,
        popcount_unit hi]
    have hsum := popcount_xor (golayCodeword defaultGolayRows (1#12 <<< i))
      (golayCodeword defaultGolayRows u)
    have hand := popcount_golayCodeword_and (1#12 <<< i) u
    rw [golayCodeword_xor]
    omega

/-- The columns invert GOLAY_PARITY. -/
theorem golayParity_columns (a : BitVec 12) :
    golayParity defaultGolayColumns (golayParity defaultGolayRows a) = a := by
  induction a using unit_xor_induction with
  | zero => simp
  | step i hi u ih =>
    rw [golayParity_xor, golayParity_xor, golayParity_unit defaultGolayRows ⟨i, hi⟩,
      golayParity_columns_defaultRow, ih]

/-- A word of weight 1 selects one row. -/
theorem exists_row_of_popcount_eq_one {v : BitVec 12} (h : popcount v = 1) :
    ∃ i : Fin 12, v = 1#12 <<< i.val := by
  obtain ⟨i, hi, u, hv, hcount⟩ := exists_unit_xor fun h0 : v = 0#12 => by simp [h0] at h
  have hu : u = 0#12 := popcount_eq_zero.mp (by omega)
  exact ⟨⟨i, hi⟩, by rw [hv, hu, BitVec.xor_zero]⟩

/-- A word of weight 1 selects a row of weight 7, if all rows have it. -/
theorem popcount_golayParity_of_one {rows : Vector (BitVec 12) 12}
    (hrows : ∀ i : Fin 12, popcount rows[i] = 7) {v : BitVec 12} (h : popcount v = 1) :
    popcount (golayParity rows v) = 7 := by
  obtain ⟨i, rfl⟩ := exists_row_of_popcount_eq_one h
  rw [golayParity_unit, hrows]

/-- The sum of two default rows has weight 6 at least. -/
theorem popcount_golayParity_of_two {v : BitVec 12} (h : popcount v = 2) :
    6 ≤ popcount (golayParity defaultGolayRows v) := by
  obtain ⟨i, hi, u, rfl, hcount⟩ := exists_unit_xor fun h0 : v = 0#12 => by simp [h0] at h
  obtain ⟨j, rfl⟩ := exists_row_of_popcount_eq_one (by omega : popcount u = 1)
  have hij : (⟨i, hi⟩ : Fin 12) ≠ j := by
    rintro rfl
    simp at h
  have hrows := popcount_defaultRow_and ⟨i, hi⟩ j hij
  have hsum := popcount_xor defaultGolayRows[(⟨i, hi⟩ : Fin 12)] defaultGolayRows[j]
  rw [popcount_defaultRow, popcount_defaultRow] at hsum
  rw [golayParity_xor, golayParity_unit defaultGolayRows ⟨i, hi⟩, golayParity_unit]
  omega

/-- No codeword has weight 4: info or parity would have too few 1s for the other half. -/
theorem popcount_golayCodeword_ne_four (a : BitVec 12) : popcount (golayCodeword defaultGolayRows a) ≠ 4 := by
  intro h
  rw [golayCodeword, popcount_append] at h
  have hinfo0 : popcount a ≠ 0 := fun h0 => by simp [popcount_eq_zero.mp h0] at h
  have hinfo1 : popcount a ≠ 1 := fun h1 => by
    have := popcount_golayParity_of_one popcount_defaultRow h1
    omega
  have hinfo2 : popcount a ≠ 2 := fun h2 => by
    have := popcount_golayParity_of_two h2
    omega
  have hpar0 : popcount (golayParity defaultGolayRows a) ≠ 0 := fun h0 => by
    rw [← golayParity_columns a, popcount_eq_zero.mp h0, golayParity_zero, popcount_zero] at hinfo0
    exact hinfo0 rfl
  have hpar1 : popcount (golayParity defaultGolayRows a) ≠ 1 := fun h1 => by
    have := popcount_golayParity_of_one popcount_defaultColumn h1
    rw [golayParity_columns] at this
    omega
  omega

/-- Minimum weight 8 (R246). -/
theorem eight_le_popcount_golayCodeword {a : BitVec 12} (h : a ≠ 0#12) :
    8 ≤ popcount (golayCodeword defaultGolayRows a) := by
  have h0 := mt popcount_eq_zero.mp (golayCodeword_ne_zero defaultGolayRows h)
  have h4 := popcount_golayCodeword_ne_four a
  have hmod := popcount_golayCodeword_mod a
  omega

/-- The complement of a codeword is the codeword of the complement. -/
theorem golayCodeword_not (a : BitVec 12) :
    golayCodeword defaultGolayRows (~~~a) = ~~~golayCodeword defaultGolayRows a := by
  have hones : golayCodeword defaultGolayRows (BitVec.allOnes 12) = BitVec.allOnes 24 := by decide +kernel
  rw [← BitVec.xor_allOnes, golayCodeword_xor, hones, BitVec.xor_allOnes]

/-- The weights of the default code (R246). -/
theorem popcount_golayCodeword_mem (a : BitVec 12) :
    popcount (golayCodeword defaultGolayRows a) ∈ ({0, 8, 12, 16, 24} : Finset Nat) := by
  have hmod := popcount_golayCodeword_mod a
  have h4 := popcount_golayCodeword_ne_four a
  have hnot4 := popcount_golayCodeword_ne_four (~~~a)
  have hle := popcount_le (golayCodeword defaultGolayRows a)
  rw [golayCodeword_not, popcount_not] at hnot4
  simp only [Finset.mem_insert, Finset.mem_singleton]
  omega

end Sys2Proof.Machine
end

section
/-! PROOF. R246, R247: light words and their syndromes in the default code. Half of its syndromes are those
of the words of weight 1 and 3, and every word of odd weight has one of them. -/

namespace Sys2Proof.Machine

/-- The words of weight `w` whose 1s are among those of `c`. -/
def subwords (w : Nat) (c : BitVec 24) : Finset (BitVec 24) :=
  (patternsOn w (onePositions c)).toFinset

section Subwords
variable {w : Nat} {c e : BitVec 24}

@[simp] theorem mem_subwords : e ∈ subwords w c ↔ popcount e = w ∧ e &&& c = e := by
  rw [subwords, List.mem_toFinset, mem_patternsOn (onePositions_sublist c), onePositions_sublist_iff]

theorem card_subwords (w : Nat) (c : BitVec 24) : (subwords w c).card = (popcount c).choose w := by
  rw [subwords, List.toFinset_card_of_nodup (nodup_patternsOn (onePositions_sublist c)), length_patternsOn,
    length_onePositions]

theorem popcount_le_of_and_eq (h : e &&& c = e) : popcount e ≤ popcount c :=
  (onePositions_sublist_iff.mpr h).length_le

end Subwords

/-- The words of weight `w`. -/
def wordsOfWeight (w : Nat) : Finset (BitVec 24) :=
  subwords w (BitVec.allOnes 24)

@[simp] theorem mem_wordsOfWeight {w : Nat} {e : BitVec 24} : e ∈ wordsOfWeight w ↔ popcount e = w := by
  rw [wordsOfWeight, mem_subwords, BitVec.and_allOnes, and_iff_left rfl]

theorem card_wordsOfWeight (w : Nat) : (wordsOfWeight w).card = Nat.choose 24 w :=
  card_subwords w _

section Syndromes
variable {x y : BitVec 24} (h : syndrome defaultGolayRows x = syndrome defaultGolayRows y)
include h

/-- Light words are told apart by their syndromes (R246). -/
theorem eq_of_syndrome_eq (hlight : popcount x + popcount y < 8) : x = y := by
  obtain ⟨a, ha⟩ := exists_golayCodeword_of_syndrome_eq defaultGolayRows h
  by_cases h0 : a = 0#12
  · rw [h0, golayCodeword_zero] at ha
    exact BitVec.xor_eq_zero_iff.mp ha
  · have hmin := eight_le_popcount_golayCodeword h0
    have hsum := popcount_xor x y
    rw [ha] at hsum
    omega

/-- A syndrome knows whether a word's weight is odd (R246). -/
theorem popcount_mod_two_of_syndrome_eq : popcount x % 2 = popcount y % 2 := by
  obtain ⟨a, ha⟩ := exists_golayCodeword_of_syndrome_eq defaultGolayRows h
  have hmod := popcount_golayCodeword_mod a
  have hsum := popcount_xor x y
  rw [ha] at hsum
  omega

end Syndromes

/-- A light word other than 0 has a syndrome other than 0 (R246). -/
theorem syndrome_ne_zero {e : BitVec 24} (h1 : 1 ≤ popcount e) (h7 : popcount e < 8) :
    syndrome defaultGolayRows e ≠ 0#12 := fun h => by
  rw [← syndrome_zero defaultGolayRows] at h
  rw [eq_of_syndrome_eq h (by simpa using h7), popcount_zero] at h1
  omega

/-- The syndromes of the words of weight 1 and 3. -/
def oddSyndromes : Finset (BitVec 12) :=
  (wordsOfWeight 1 ∪ wordsOfWeight 3).image (syndrome defaultGolayRows)

theorem mem_oddSyndromes {syn : BitVec 12} : syn ∈ oddSyndromes ↔
    ∃ x, (popcount x = 1 ∨ popcount x = 3) ∧ syndrome defaultGolayRows x = syn := by
  simp [oddSyndromes]

theorem card_oddSyndromes : oddSyndromes.card = 2048 := by
  have hdisj : Disjoint (wordsOfWeight 1) (wordsOfWeight 3) := by
    simp +contextual [Finset.disjoint_left]
  rw [oddSyndromes, Finset.card_image_of_injOn, Finset.card_union_of_disjoint hdisj, card_wordsOfWeight,
    card_wordsOfWeight]
  · rfl
  · intro x hx y hy h
    simp only [Finset.coe_union, Set.mem_union, Finset.mem_coe, mem_wordsOfWeight] at hx hy
    exact eq_of_syndrome_eq h (by omega)

/-- The odd syndromes with the syndrome of one word of weight 1 added. -/
def evenSyndromes : Finset (BitVec 12) :=
  oddSyndromes.image (syndrome defaultGolayRows 1#24 ^^^ ·)

theorem exists_of_mem_evenSyndromes {syn : BitVec 12} (h : syn ∈ evenSyndromes) :
    ∃ y, popcount y % 2 = 0 ∧ syndrome defaultGolayRows y = syn := by
  obtain ⟨odd, hodd, rfl⟩ := Finset.mem_image.mp h
  obtain ⟨x, hx, rfl⟩ := mem_oddSyndromes.mp hodd
  have hsum := popcount_xor 1#24 x
  have hone : popcount 1#24 = 1 := by decide
  exact ⟨1#24 ^^^ x, by omega, syndrome_xor _ _ _⟩

/-- A word of odd weight has no even syndrome. -/
theorem syndrome_notMem_evenSyndromes {e : BitVec 24} (h : popcount e % 2 = 1) :
    syndrome defaultGolayRows e ∉ evenSyndromes := fun hmem => by
  obtain ⟨y, hy, hsyn⟩ := exists_of_mem_evenSyndromes hmem
  have := popcount_mod_two_of_syndrome_eq hsyn
  omega

theorem disjoint_oddSyndromes_evenSyndromes : Disjoint oddSyndromes evenSyndromes := by
  refine Finset.disjoint_left.mpr fun syn hodd => ?_
  obtain ⟨x, hx, rfl⟩ := mem_oddSyndromes.mp hodd
  exact syndrome_notMem_evenSyndromes (by omega)

/-- The two sets hold 2048 of the 4096 syndromes each. -/
theorem mem_oddSyndromes_or_mem_evenSyndromes (syn : BitVec 12) :
    syn ∈ oddSyndromes ∨ syn ∈ evenSyndromes := by
  have hcard : evenSyndromes.card = 2048 := by
    rw [evenSyndromes, Finset.card_image_of_injective _ fun a b => (BitVec.xor_right_inj _).mp,
      card_oddSyndromes]
  have huniv : oddSyndromes ∪ evenSyndromes = Finset.univ := by
    rw [← Finset.card_eq_iff_eq_univ, Finset.card_union_of_disjoint disjoint_oddSyndromes_evenSyndromes,
      card_oddSyndromes, hcard, ← FinEnum.card_eq_fintypeCard, FinEnum.card_bitVec]
    rfl
  exact Finset.mem_union.mp (huniv ▸ Finset.mem_univ syn)

/-- A word of weight 5 has the syndrome of a word of weight 3 (R247). -/
theorem exists_weight_three {e : BitVec 24} (h : popcount e = 5) :
    ∃ d, popcount d = 3 ∧ syndrome defaultGolayRows d = syndrome defaultGolayRows e := by
  have hodd : syndrome defaultGolayRows e ∈ oddSyndromes :=
    (mem_oddSyndromes_or_mem_evenSyndromes _).resolve_right (syndrome_notMem_evenSyndromes (by omega))
  obtain ⟨d, h1 | h3, hsyn⟩ := mem_oddSyndromes.mp hodd
  · have heq := eq_of_syndrome_eq hsyn (by omega)
    rw [heq] at h1
    omega
  · exact ⟨d, h3, hsyn⟩

end Sys2Proof.Machine
end

section
/-! PROOF. R246: the default code is the extended Golay code. Each word of weight 5 lies in exactly one codeword
of weight 8, which counts these; the complements and the number of all codewords give the other counts. -/

namespace Sys2Proof.Machine

/-- The info words whose codewords have weight `n`. -/
def infosOfWeight (n : Nat) : Finset (Fin (2 ^ 12)) :=
  Finset.univ.filter fun info => popcount (golayCodeword defaultGolayRows (BitVec.ofFin info)) = n

@[simp] theorem mem_infosOfWeight {n : Nat} {i : Fin (2 ^ 12)} :
    i ∈ infosOfWeight n ↔ popcount (golayCodeword defaultGolayRows (BitVec.ofFin i)) = n := by
  simp [infosOfWeight]

/-- Each word of weight 5 lies in a codeword of weight 8. -/
theorem exists_octad {e : BitVec 24} (h : popcount e = 5) :
    ∃ i ∈ infosOfWeight 8, e &&& golayCodeword defaultGolayRows (BitVec.ofFin i) = e := by
  obtain ⟨d, hd, hsyn⟩ := exists_weight_three h
  obtain ⟨a, ha⟩ := exists_golayCodeword_of_syndrome_eq defaultGolayRows hsyn.symm
  have hsum := popcount_xor e d
  have hne : a ≠ 0#12 := fun h0 => by
    rw [h0, golayCodeword_zero, BitVec.xor_eq_zero_iff] at ha
    rw [ha] at h
    omega
  have hmin := eight_le_popcount_golayCodeword hne
  rw [← ha] at hmin
  have hand : e &&& d = 0#24 := popcount_eq_zero.mp (by omega)
  refine ⟨a.toFin, mem_infosOfWeight.mpr ?_, ?_⟩
  · change popcount (golayCodeword defaultGolayRows a) = 8
    rw [← ha]
    omega
  · change e &&& golayCodeword defaultGolayRows a = e
    rw [← ha, BitVec.and_comm, xor_and_distrib, BitVec.and_self, BitVec.and_comm d, hand, BitVec.xor_zero]

/-- Two codewords of weight 8 that share a word of weight 5 are equal. -/
theorem octad_unique {e : BitVec 24} (h : popcount e = 5) {i j : Fin (2 ^ 12)}
    (hi : i ∈ infosOfWeight 8) (hj : j ∈ infosOfWeight 8)
    (hei : e &&& golayCodeword defaultGolayRows (BitVec.ofFin i) = e)
    (hej : e &&& golayCodeword defaultGolayRows (BitVec.ofFin j) = e) : i = j := by
  by_contra hne
  have hmin := eight_le_popcount_golayCodeword
    (mt BitVec.xor_eq_zero_iff.mp fun heq => hne (BitVec.ofFin.inj heq))
  have hsum := popcount_xor (golayCodeword defaultGolayRows (BitVec.ofFin i))
    (golayCodeword defaultGolayRows (BitVec.ofFin j))
  have hle := popcount_le_of_and_eq (e := e) (c := golayCodeword defaultGolayRows (BitVec.ofFin i) &&&
    golayCodeword defaultGolayRows (BitVec.ofFin j)) (by rw [← BitVec.and_assoc, hei, hej])
  rw [mem_infosOfWeight] at hi hj
  rw [golayCodeword_xor] at hmin
  omega

/-- There are 759 codewords of weight 8: each holds 56 of the 42504 words of weight 5 (R246). -/
theorem card_octads : (infosOfWeight 8).card = 759 := by
  have hcount := Finset.card_mul_eq_card_mul (m := 56) (n := 1) (s := infosOfWeight 8)
    (t := wordsOfWeight 5)
    (fun i e => e &&& golayCodeword defaultGolayRows (BitVec.ofFin i) = e)
    (fun i hi => ?_) (fun e he => ?_)
  · rw [card_wordsOfWeight] at hcount
    have hchoose : Nat.choose 24 5 = 42504 := by decide
    omega
  · have hfilter : (wordsOfWeight 5).bipartiteAbove
        (fun i e => e &&& golayCodeword defaultGolayRows (BitVec.ofFin i) = e) i =
          subwords 5 (golayCodeword defaultGolayRows (BitVec.ofFin i)) := by
      ext e
      simp
    rw [hfilter, card_subwords, mem_infosOfWeight.mp hi]
    rfl
  · have h5 := mem_wordsOfWeight.mp he
    obtain ⟨i, hi, hei⟩ := exists_octad h5
    refine Finset.card_eq_one.mpr ⟨i, Finset.eq_singleton_iff_unique_mem.mpr ⟨?_, fun j hj => ?_⟩⟩
    · exact (Finset.mem_bipartiteBelow _).mpr ⟨hi, hei⟩
    · obtain ⟨hj, hej⟩ := (Finset.mem_bipartiteBelow _).mp hj
      exact octad_unique h5 hj hi hej hei

/-- The complement of an info word has the complement of its codeword. -/
theorem complement_mem_infosOfWeight {n : Nat} {i : Fin (2 ^ 12)} (h : i ∈ infosOfWeight n) :
    (~~~BitVec.ofFin i).toFin ∈ infosOfWeight (24 - n) := by
  rw [mem_infosOfWeight, BitVec.ofFin_toFin, golayCodeword_not, popcount_not, mem_infosOfWeight.mp h]

/-- As many codewords have weight `24 - n` as `n`. -/
theorem card_infosOfWeight_compl {n : Nat} (hn : n ≤ 24) :
    (infosOfWeight (24 - n)).card = (infosOfWeight n).card :=
  Finset.card_nbij' (fun i => (~~~BitVec.ofFin i).toFin) (fun i => (~~~BitVec.ofFin i).toFin)
    (fun _ hi => Nat.sub_sub_self hn ▸ complement_mem_infosOfWeight hi)
    (fun _ hi => complement_mem_infosOfWeight hi)
    (fun _ _ => by simp) (fun _ _ => by simp)

/-- 0 is the only codeword of weight 0. -/
theorem card_infosOfWeight_zero : (infosOfWeight 0).card = 1 := by
  refine Finset.card_eq_one.mpr ⟨0, Finset.eq_singleton_iff_unique_mem.mpr ⟨?_, fun i hi => ?_⟩⟩
  · exact mem_infosOfWeight.mpr (popcount_eq_zero.mpr (golayCodeword_zero _))
  · by_contra hne
    have hmin := eight_le_popcount_golayCodeword (mt (congrArg BitVec.toFin) hne : BitVec.ofFin i ≠ 0#12)
    rw [mem_infosOfWeight.mp hi] at hmin
    omega

/-- The codewords of the five weights are all the codewords (R246). -/
theorem sum_card_infosOfWeight : ∑ n ∈ {0, 8, 12, 16, 24}, (infosOfWeight n).card = 4096 :=
  calc ∑ n ∈ {0, 8, 12, 16, 24}, (infosOfWeight n).card
      = (Finset.univ : Finset (Fin (2 ^ 12))).card :=
        (Finset.card_eq_sum_card_fiberwise fun i _ => popcount_golayCodeword_mem (BitVec.ofFin i)).symm
    _ = 4096 := by rw [Finset.card_univ, Fintype.card_fin]; rfl

/-- What five counts with a sum of 4096 leave for the middle one. -/
theorem middle_count {f : Nat → Nat} (hsum : ∑ n ∈ {0, 8, 12, 16, 24}, f n = 4096) (h0 : f 0 = 1)
    (h8 : f 8 = 759) (h16 : f 16 = 759) (h24 : f 24 = 1) : f 12 = 2576 := by
  have hsum' : 1 + (759 + (f 12 + (759 + 1))) = 4096 := by simpa [h0, h8, h16, h24] using hsum
  omega

/-- The weight distribution (R246). -/
theorem card_infosOfWeight :
    ∀ p ∈ [(0, 1), (8, 759), (12, 2576), (16, 759), (24, 1)], (infosOfWeight p.1).card = p.2 := by
  have h0 := card_infosOfWeight_zero
  have h8 := card_octads
  have h16 : (infosOfWeight 16).card = 759 := (card_infosOfWeight_compl (n := 8) (by decide)).trans h8
  have h24 : (infosOfWeight 24).card = 1 := (card_infosOfWeight_compl (n := 0) (by decide)).trans h0
  have h12 : (infosOfWeight 12).card = 2576 :=
    middle_count (f := fun n => (infosOfWeight n).card) sum_card_infosOfWeight h0 h8 h16 h24
  simp [h0, h8, h12, h16, h24]

/-- Settles O45: the weights by counting the words of weight 5 in the codewords of weight 8, the rest from
the minimum weight. -/
theorem defaultCodeIsExtendedGolay : Obligations.DefaultCodeIsExtendedGolay := by
  unfold Obligations.DefaultCodeIsExtendedGolay
  have hpop {e : BitVec 24} (he : e ∈ errorPatterns) : 1 ≤ popcount e ∧ popcount e ≤ 3 :=
    mem_errorPatterns.mp he
  have hnodup : (errorPatterns.map (syndrome defaultGolayRows)).Nodup :=
    nodup_errorPatterns.map_on fun x hx y hy h => by
      have hx := hpop hx
      have hy := hpop hy
      exact eq_of_syndrome_eq h (by omega)
  have hzero : ∀ e ∈ errorPatterns, syndrome defaultGolayRows e ≠ 0#12 := fun e he => by
    obtain ⟨h1, h3⟩ := hpop he
    exact syndrome_ne_zero h1 (by omega)
  refine ⟨card_infosOfWeight, fun a b hab => ?_, length_errorPatterns, hnodup, hzero, ?_⟩
  · rw [← golayCodeword_xor]
    exact eight_le_popcount_golayCodeword (mt BitVec.xor_eq_zero_iff.mp hab)
  · rw [buildSyndromeRom_eq_foldl, foldl_enterPattern_of_nodup defaultGolayRows hzero hnodup, List.length_map,
      length_errorPatterns]

end Sys2Proof.Machine
end

section
/-! PROOF. R245, R247: what GOL_DEC makes of up to five errors under the default table. -/

namespace Sys2Proof.Machine

/-- SYNDROME_ROM holds each word of weight 1 to 3 at its own syndrome (R242, R246). -/
theorem syndromeRom_of_light {e : BitVec 24} (h1 : 1 ≤ popcount e) (h3 : popcount e ≤ 3) :
    syndromeRom defaultGolayRows (syndrome defaultGolayRows e) = some e := by
  cases hrom : syndromeRom defaultGolayRows (syndrome defaultGolayRows e) with
  | none =>
    have hne := syndrome_ne_zero h1 (by omega)
    exact absurd rfl ((syndromeRom_eq_none_iff _ hne).mp hrom e h1 h3)
  | some d =>
    obtain ⟨-, hd3, hsyn⟩ := syndromeRom_some _ hrom
    rw [eq_of_syndrome_eq hsyn (by omega)]

section Errors
variable (info : BitVec 12) {e : BitVec 24} {s : State} (hrows : s.params.golayRows = defaultGolayRows)
include hrows

/-- The syndrome that GOL_DEC computes is that of the errors (R243). -/
theorem syndrome_received : syndrome s.params.golayRows (golayCodeword defaultGolayRows info ^^^ e) =
    syndrome defaultGolayRows e := by
  rw [hrows, syndrome_golayCodeword_xor]

/-- Up to three errors are removed (R247). -/
theorem memRead_afterGolDec_of_le_three (h : popcount e ≤ 3) :
    memRead (s.afterGolDec (golayCodeword defaultGolayRows info ^^^ e)) 0x070 = info.setWidth 32 ∧
      memRead (s.afterGolDec (golayCodeword defaultGolayRows info ^^^ e)) 0x074 =
        BitVec.ofNat 32 (popcount e) ||| 0x00010000 := by
  have hsyn := syndrome_received info (e := e) hrows
  by_cases h0 : e = 0#24
  · subst h0
    have hread := memRead_afterGolDec_of_codeword s _ (hsyn.trans (syndrome_zero _))
    simpa using hread
  · have h1 := Nat.pos_of_ne_zero (mt popcount_eq_zero.mp h0)
    have hrom := syndromeRom_of_light h1 h
    have hread := memRead_afterGolDec_of_some s _ (e := e) (by rw [hsyn, hrows, hrom])
    rwa [BitVec.xor_assoc, BitVec.xor_self, BitVec.xor_zero, infoOf_golayCodeword] at hread

/-- Four errors are reported, with the received info (R247). -/
theorem memRead_afterGolDec_of_four (h : popcount e = 4) :
    memRead (s.afterGolDec (golayCodeword defaultGolayRows info ^^^ e)) 0x070 =
        (info ^^^ infoOf e).setWidth 32 ∧
      memRead (s.afterGolDec (golayCodeword defaultGolayRows info ^^^ e)) 0x074 = 0x00010100 := by
  have hsyn := syndrome_received info (e := e) hrows
  have hne := syndrome_ne_zero (e := e) (by omega) (by omega)
  have hnone : syndromeRom defaultGolayRows (syndrome defaultGolayRows e) = none := by
    refine (syndromeRom_eq_none_iff _ hne).mpr fun d _ h3 hd => ?_
    rw [eq_of_syndrome_eq hd (by omega)] at h3
    omega
  have hread := memRead_afterGolDec_of_none s _ (hsyn ▸ hne) (by rw [hsyn, hrows, hnone])
  rwa [infoOf_xor, infoOf_golayCodeword] at hread

/-- Five errors look like the three that lead to another codeword (R247). -/
theorem memRead_afterGolDec_of_five (h : popcount e = 5) :
    ∃ other : BitVec 12,
      popcount (golayCodeword defaultGolayRows info ^^^ e ^^^ golayCodeword defaultGolayRows other) = 3 ∧
      memRead (s.afterGolDec (golayCodeword defaultGolayRows info ^^^ e)) 0x070 = other.setWidth 32 ∧
      memRead (s.afterGolDec (golayCodeword defaultGolayRows info ^^^ e)) 0x074 = 0x00010003 := by
  have hsyn := syndrome_received info (e := e) hrows
  obtain ⟨d, h3, hd⟩ := exists_weight_three h
  have hrom := syndromeRom_of_light (by omega) h3.le
  have hread := memRead_afterGolDec_of_some s _ (e := d) (by rw [hsyn, hrows, ← hd, hrom])
  have hother : syndrome defaultGolayRows (golayCodeword defaultGolayRows info ^^^ e ^^^ d) = 0#12 := by
    rw [syndrome_xor, syndrome_golayCodeword_xor, hd, BitVec.xor_self]
  refine ⟨infoOf (golayCodeword defaultGolayRows info ^^^ e ^^^ d), ?_, hread.1, ?_⟩
  · rw [← eq_golayCodeword_of_syndrome_eq_zero _ hother, ← BitVec.xor_assoc, BitVec.xor_self,
      BitVec.zero_xor, h3]
  · rw [hread.2, h3]
    rfl

end Errors

/-- Settles O46: the decoder removes the one word of weight at most 3 that has the syndrome of the errors. -/
theorem correctionUnderTheDefaultTable : Obligations.CorrectionUnderTheDefaultTable := by
  unfold Obligations.CorrectionUnderTheDefaultTable
  intro info e s hrows
  exact ⟨_, exec_golDec s _, memRead_afterGolDec_of_le_three info hrows,
    memRead_afterGolDec_of_four info hrows, memRead_afterGolDec_of_five info hrows⟩

end Sys2Proof.Machine
end

section
/-! PROOF. R115, R270-R273: the restricted set, payloads as numbers in base 128, results as byte lanes, and
the two codec functions case by case. -/

namespace Sys2Proof.Machine

section Payload
variable {c c0 c1 c2 : Byte} (p : BitVec 21)

/-- The 42 codepoints, written out (R270). -/
theorem isRA_iff_mem : isRA c = true ↔ c.toNat ∈
    0x20 :: 0x2D :: 0x2E :: 0x2F :: 0x3F :: 0x40 :: (List.range' 0x30 10 ++ List.range' 0x41 26) := by
  simp only [isRA, Bool.or_eq_true, Bool.and_eq_true, beq_iff_eq, decide_eq_true_eq, List.mem_cons,
    List.mem_append, List.mem_range'_1]
  omega

/-- "Every member of RA is below 0x80, so it fits in 7 bits" (R270). -/
theorem toNat_lt_of_isRA (h : isRA c = true) : c.toNat < 2 ^ 7 := by
  simp only [isRA_iff_mem, List.mem_cons, List.mem_append, List.mem_range'_1] at h
  omega

theorem toNat_payloadC0 : (payloadC0 p).toNat = p.toNat % 2 ^ 7 := by
  rw [payloadC0, BitVec.toNat_setWidth, BitVec.extractLsb'_toNat, Nat.shiftRight_zero]
  omega

theorem toNat_payloadC1 : (payloadC1 p).toNat = p.toNat / 2 ^ 7 % 2 ^ 7 := by
  rw [payloadC1, BitVec.toNat_setWidth, BitVec.extractLsb'_toNat, Nat.shiftRight_eq_div_pow]
  omega

theorem toNat_payloadC2 : (payloadC2 p).toNat = p.toNat / 2 ^ 14 := by
  have := p.isLt
  rw [payloadC2, BitVec.toNat_setWidth, BitVec.extractLsb'_toNat, Nat.shiftRight_eq_div_pow]
  omega

/-- A packed string as a number: seven bits of each character, the first character lowest (R115). -/
theorem toNat_packChars : (packChars c0 c1 c2).toNat =
    c0.toNat % 2 ^ 7 + c1.toNat % 2 ^ 7 * 2 ^ 7 + c2.toNat % 2 ^ 7 * 2 ^ 14 := by
  rw [packChars, BitVec.toNat_append, BitVec.toNat_append,
    ← Nat.shiftLeft_add_eq_or_of_lt (BitVec.isLt _), ← Nat.shiftLeft_add_eq_or_of_lt (BitVec.isLt _),
    Nat.shiftLeft_eq, Nat.shiftLeft_eq, BitVec.toNat_setWidth, BitVec.toNat_setWidth,
    BitVec.toNat_setWidth]
  omega

/-- The fields of a packed string are its characters (R115). -/
theorem payloadC0_packChars (h : isRA c0 = true) : payloadC0 (packChars c0 c1 c2) = c0 := by
  have := toNat_lt_of_isRA h
  apply BitVec.eq_of_toNat_eq
  rw [toNat_payloadC0, toNat_packChars]
  omega

theorem payloadC1_packChars (h : isRA c1 = true) : payloadC1 (packChars c0 c1 c2) = c1 := by
  have := toNat_lt_of_isRA h
  apply BitVec.eq_of_toNat_eq
  rw [toNat_payloadC1, toNat_packChars]
  omega

theorem payloadC2_packChars (h : isRA c2 = true) : payloadC2 (packChars c0 c1 c2) = c2 := by
  have := toNat_lt_of_isRA h
  apply BitVec.eq_of_toNat_eq
  rw [toNat_payloadC2, toNat_packChars]
  omega

/-- Packing the fields of a payload gives it back (R115). -/
theorem packChars_payload : packChars (payloadC0 p) (payloadC1 p) (payloadC2 p) = p := by
  have := p.isLt
  apply BitVec.eq_of_toNat_eq
  rw [toNat_packChars, toNat_payloadC0, toNat_payloadC1, toNat_payloadC2]
  omega

end Payload

section Lanes
variable (v : Word) (c0 c1 c2 : Byte)

/-- A byte lane is a field of eight bits (R76). -/
theorem byteLane_eq_field (i : Nat) : byteLane v i = field v (8 * i) 8 := rfl

/-- A word as a number: its byte lanes in base 256 (R76). -/
theorem toNat_eq_byteLanes : v.toNat = (byteLane v 0).toNat + (byteLane v 1).toNat * 2 ^ 8 +
    (byteLane v 2).toNat * 2 ^ 16 + (byteLane v 3).toNat * 2 ^ 24 := by
  have := v.isLt
  simp only [byteLane_eq_field, field_toNat]
  omega

/-- Three characters in the byte lanes of a word, as ASC_DEC returns them (R273). -/
def charsWord : Word :=
  c0.setWidth 32 ||| c1.setWidth 32 <<< 8 ||| c2.setWidth 32 <<< 16

/-- The characters stand in their fields of the word. -/
theorem charsWord_eq_place : charsWord c0 c1 c2 = place c0 0 ||| place c1 8 ||| place c2 16 := by
  simp only [charsWord, place, BitVec.shiftLeft_zero]

@[simp] theorem byteLane_charsWord_zero : byteLane (charsWord c0 c1 c2) 0 = c0 := by
  simp [byteLane_eq_field, charsWord_eq_place]

@[simp] theorem byteLane_charsWord_one : byteLane (charsWord c0 c1 c2) 1 = c1 := by
  simp [byteLane_eq_field, charsWord_eq_place]

@[simp] theorem byteLane_charsWord_two : byteLane (charsWord c0 c1 c2) 2 = c2 := by
  simp [byteLane_eq_field, charsWord_eq_place]

@[simp] theorem byteLane_charsWord_three : byteLane (charsWord c0 c1 c2) 3 = 0 :=
  topByte_characters c0 c1 c2

/-- Three characters as a number: base 256, the first one lowest (R273). -/
theorem toNat_charsWord :
    (charsWord c0 c1 c2).toNat = c0.toNat + c1.toNat * 2 ^ 8 + c2.toNat * 2 ^ 16 := by
  simp [toNat_eq_byteLanes (charsWord c0 c1 c2)]

end Lanes

section Codec
variable {c0 c1 c2 : Byte} {p : BitVec 21}

/-- Three characters that are all restricted ASCII. -/
def AllRA (c0 c1 c2 : Byte) : Prop :=
  isRA c0 = true ∧ isRA c1 = true ∧ isRA c2 = true

/-- Three payload fields that are all restricted ASCII (R273). -/
def ValidPayload (p : BitVec 21) : Prop :=
  AllRA (payloadC0 p) (payloadC1 p) (payloadC2 p)

/-- The test of both commands. -/
theorem allRA_iff : AllRA c0 c1 c2 ↔ (isRA c0 && isRA c1 && isRA c2) = true := by
  rw [AllRA, Bool.and_eq_true, Bool.and_eq_true, and_assoc]

theorem asciiEncode_of_allRA (h : AllRA c0 c1 c2) : asciiEncode c0 c1 c2 =
    { res := (packChars c0 c1 c2).setWidth 32, stat := { invalid := false, op := false } } :=
  if_pos (allRA_iff.mp h)

theorem asciiEncode_of_not_allRA (h : ¬ AllRA c0 c1 c2) : asciiEncode c0 c1 c2 =
    { res := 0xFFFFFFFF, stat := { invalid := true, op := false } } :=
  if_neg (mt allRA_iff.mpr h)

theorem asciiDecode_of_valid (h : ValidPayload p) : asciiDecode p =
    { res := charsWord (payloadC0 p) (payloadC1 p) (payloadC2 p)
      stat := { invalid := false, op := true } } :=
  if_pos (allRA_iff.mp h)

theorem asciiDecode_of_not_valid (h : ¬ ValidPayload p) : asciiDecode p =
    { res := 0x003F3F3F, stat := { invalid := true, op := true } } :=
  if_neg (mt allRA_iff.mpr h)

/-- ASC_DEC accepts the valid payloads and no other (R273). -/
theorem invalid_asciiDecode_eq_false : (asciiDecode p).stat.invalid = false ↔ ValidPayload p := by
  by_cases h : ValidPayload p
  · simp [asciiDecode_of_valid h, h]
  · simp [asciiDecode_of_not_valid h, h]

/-- A packed string of restricted ASCII is a valid payload (R274). -/
theorem validPayload_packChars (h : AllRA c0 c1 c2) : ValidPayload (packChars c0 c1 c2) := by
  obtain ⟨h0, h1, h2⟩ := h
  rw [ValidPayload, payloadC0_packChars h0, payloadC1_packChars h1, payloadC2_packChars h2]
  exact ⟨h0, h1, h2⟩

end Codec

end Sys2Proof.Machine
end

section
/-! PROOF. R270-R273: what the host reads after ASC_ENC and ASC_DEC, and what they leave alone. -/

namespace Sys2Proof.Machine

section Results
variable (s : State) (u : AsciiUnit)

/-- ASC_RES as the host reads it (R56, R71). -/
theorem memRead_setAsc_res : memRead (s.setAsc u).retire 0x090 = u.res :=
  memRead_offset (s.setAsc u).retire .ascRes

/-- ASC_STAT as the host reads it (R57, R71). -/
theorem memRead_setAsc_stat : memRead (s.setAsc u).retire 0x094 = u.stat.toWord :=
  memRead_offset (s.setAsc u).retire .ascStat

/-- Replacing the codec's results changes ASC_RES and ASC_STAT only (R71). -/
theorem setAsc_frame : Frame (fun a => a = 0x090 ∨ a = 0x094) s (s.setAsc u).retire where
  window a ha := by
    rw [memRead_retire]
    refine memRead_eq_of_regs (changed := fun a => a = 0x090 ∨ a = 0x094) (fun r hr => ?_) a ha
    cases r with
    | ascRes => exact absurd (.inl rfl) hr
    | ascStat => exact absurd (.inr rfl) hr
    | _ => rfl
  params := rfl
  pending := rfl
  replies := rfl
  ready := rfl
  readyPlan := rfl

theorem setAsc_quiet : Quiet s (s.setAsc u).retire := ⟨rfl, rfl, rfl⟩

end Results

section Commands
variable (s : State) {c0 c1 c2 : Byte} {p : BitVec 21}

/-- The state after ASC_ENC (R272). -/
def State.afterAscEnc (c0 c1 c2 : Byte) : State := (s.setAsc (asciiEncode c0 c1 c2)).retire

/-- The state after ASC_DEC (R273). -/
def State.afterAscDec (p : BitVec 21) : State := (s.setAsc (asciiDecode p)).retire

/-- ASC_STAT of accepted characters: OP and nothing else (R57). -/
theorem toWord_accepted (op : Bool) :
    AscStat.toWord { invalid := false, op } = if op then 0x00010000 else 0 := by
  cases op <;> rfl

/-- ASC_ENC of restricted ASCII (R272). -/
theorem memRead_afterAscEnc_of_allRA (h : AllRA c0 c1 c2) :
    (memRead (s.afterAscEnc c0 c1 c2) 0x090).toNat =
        c0.toNat + c1.toNat * 2 ^ 7 + c2.toNat * 2 ^ 14 ∧
      memRead (s.afterAscEnc c0 c1 c2) 0x094 = 0 := by
  rw [State.afterAscEnc, memRead_setAsc_res, memRead_setAsc_stat, asciiEncode_of_allRA h]
  obtain ⟨h0, h1, h2⟩ := h
  refine ⟨?_, toWord_accepted false⟩
  rw [BitVec.toNat_setWidth_of_le (by decide), toNat_packChars, Nat.mod_eq_of_lt (toNat_lt_of_isRA h0),
    Nat.mod_eq_of_lt (toNat_lt_of_isRA h1), Nat.mod_eq_of_lt (toNat_lt_of_isRA h2)]

/-- ASC_ENC of any other string (R272). -/
theorem memRead_afterAscEnc_of_not_allRA (h : ¬ AllRA c0 c1 c2) :
    memRead (s.afterAscEnc c0 c1 c2) 0x090 = 0xFFFFFFFF ∧
      memRead (s.afterAscEnc c0 c1 c2) 0x094 = 1 := by
  rw [State.afterAscEnc, memRead_setAsc_res, memRead_setAsc_stat, asciiEncode_of_not_allRA h]
  exact ⟨rfl, rfl⟩

/-- ASC_DEC of a valid payload (R273). -/
theorem memRead_afterAscDec_of_valid (h : ValidPayload p) :
    (memRead (s.afterAscDec p) 0x090).toNat = p.toNat % 2 ^ 7 + p.toNat / 2 ^ 7 % 2 ^ 7 * 2 ^ 8 +
        p.toNat / 2 ^ 14 * 2 ^ 16 ∧
      memRead (s.afterAscDec p) 0x094 = 0x00010000 := by
  rw [State.afterAscDec, memRead_setAsc_res, memRead_setAsc_stat, asciiDecode_of_valid h]
  refine ⟨?_, toWord_accepted true⟩
  rw [toNat_charsWord, toNat_payloadC0, toNat_payloadC1, toNat_payloadC2]

/-- ASC_DEC of any other payload (R273). -/
theorem memRead_afterAscDec_of_not_valid (h : ¬ ValidPayload p) :
    memRead (s.afterAscDec p) 0x090 = 0x003F3F3F ∧
      memRead (s.afterAscDec p) 0x094 = 0x00010001 := by
  rw [State.afterAscDec, memRead_setAsc_res, memRead_setAsc_stat, asciiDecode_of_not_valid h]
  exact ⟨rfl, rfl⟩

end Commands

/-- Settles O47: `isRA` tests for the listed codepoints, and each command replaces the codec's results by
those of its case. -/
theorem codecCommandsWriteTheseResults : Obligations.CodecCommandsWriteTheseResults := by
  unfold Obligations.CodecCommandsWriteTheseResults
  refine ⟨fun c => isRA_iff_mem, fun c0 c1 c2 s => ?_, fun p s => ?_⟩
  · exact ⟨s.afterAscEnc c0 c1 c2, rfl, setAsc_frame s _, setAsc_quiet s _,
      memRead_afterAscEnc_of_allRA s, memRead_afterAscEnc_of_not_allRA s⟩
  · exact ⟨s.afterAscDec p, rfl, setAsc_frame s _, setAsc_quiet s _,
      memRead_afterAscDec_of_valid s, memRead_afterAscDec_of_not_valid s⟩

end Sys2Proof.Machine
end

section
/-! PROOF. R274: the codec's round trips. They also pair each valid payload with its three characters, which
counts the valid payloads. -/

namespace Sys2Proof.Machine

/-- Decoding what ASC_ENC made of restricted ASCII returns the string, accepted (R274). -/
theorem asciiDecode_asciiEncode {c0 c1 c2 : Byte} (h : AllRA c0 c1 c2) :
    asciiDecode ((asciiEncode c0 c1 c2).res.setWidth 21) =
      { res := charsWord c0 c1 c2, stat := { invalid := false, op := true } } := by
  have hpayload : (asciiEncode c0 c1 c2).res.setWidth 21 = packChars c0 c1 c2 := by
    rw [asciiEncode_of_allRA h]
    exact BitVec.setWidth_setWidth_of_le _ (by decide)
  rw [hpayload, asciiDecode_of_valid (validPayload_packChars h)]
  obtain ⟨h0, h1, h2⟩ := h
  rw [payloadC0_packChars h0, payloadC1_packChars h1, payloadC2_packChars h2]

/-- Encoding the characters of a valid payload returns it (R274). -/
theorem asciiEncode_asciiDecode {p : BitVec 21} (h : ValidPayload p) :
    (asciiEncode (byteLane (asciiDecode p).res 0) (byteLane (asciiDecode p).res 1)
      (byteLane (asciiDecode p).res 2)).res = p.setWidth 32 := by
  rw [asciiDecode_of_valid h, byteLane_charsWord_zero, byteLane_charsWord_one, byteLane_charsWord_two,
    asciiEncode_of_allRA h, packChars_payload]

/-- The restricted set as byte values (R270). It is irreducible so that no membership test lists its
elements. -/
@[irreducible] def raBytes : Finset (Fin (2 ^ 8)) :=
  Finset.univ.filter fun c => isRA (BitVec.ofFin c) = true

theorem card_raBytes : raBytes.card = 42 := by decide +kernel

/-- The three characters of a payload, as byte values. -/
def payloadBytes (p : Fin (2 ^ 21)) : Fin (2 ^ 8) × Fin (2 ^ 8) × Fin (2 ^ 8) :=
  ((payloadC0 (.ofFin p)).toFin, (payloadC1 (.ofFin p)).toFin, (payloadC2 (.ofFin p)).toFin)

/-- The payload of three characters given as byte values. -/
def packBytes (c : Fin (2 ^ 8) × Fin (2 ^ 8) × Fin (2 ^ 8)) : Fin (2 ^ 21) :=
  (packChars (.ofFin c.1) (.ofFin c.2.1) (.ofFin c.2.2)).toFin

theorem packBytes_payloadBytes (p : Fin (2 ^ 21)) : packBytes (payloadBytes p) = p :=
  congrArg BitVec.toFin (packChars_payload (.ofFin p))

/-- A payload is valid if its three characters are restricted ASCII (R273). -/
theorem payloadBytes_mem_iff (p : Fin (2 ^ 21)) :
    payloadBytes p ∈ raBytes ×ˢ raBytes ×ˢ raBytes ↔ ValidPayload (.ofFin p) := by
  simp [payloadBytes, raBytes, ValidPayload, AllRA]

theorem payloadBytes_packBytes {c : Fin (2 ^ 8) × Fin (2 ^ 8) × Fin (2 ^ 8)}
    (h : c ∈ raBytes ×ˢ raBytes ×ˢ raBytes) : payloadBytes (packBytes c) = c := by
  simp only [Finset.mem_product, raBytes, Finset.mem_filter_univ] at h
  obtain ⟨h0, h1, h2⟩ := h
  exact Prod.ext (congrArg BitVec.toFin (payloadC0_packChars h0))
    (Prod.ext (congrArg BitVec.toFin (payloadC1_packChars h1))
      (congrArg BitVec.toFin (payloadC2_packChars h2)))

/-- "Exactly 42^3 = 74088 of the 2^21 payloads are valid" (R274). -/
theorem card_validPayloads : (Finset.univ.filter fun p : Fin (2 ^ 21) =>
    (asciiDecode (BitVec.ofFin p)).stat.invalid = false).card = 74088 := by
  have hcard : (raBytes ×ˢ raBytes ×ˢ raBytes).card = 74088 := by
    rw [Finset.card_product, Finset.card_product, card_raBytes]
  rw [← hcard]
  refine Finset.card_nbij' payloadBytes packBytes (fun p hp => ?_) (fun c hc => ?_)
    (fun p _ => packBytes_payloadBytes p) (fun c hc => payloadBytes_packBytes (Finset.mem_coe.mp hc))
  · rw [Finset.mem_coe, Finset.mem_filter_univ, invalid_asciiDecode_eq_false] at hp
    exact (payloadBytes_mem_iff p).mpr hp
  · rw [Finset.mem_coe, Finset.mem_filter_univ, invalid_asciiDecode_eq_false, ← payloadBytes_mem_iff,
      payloadBytes_packBytes hc]
    exact hc

/-- Settles O48: packing and splitting are inverse between strings of restricted ASCII and valid payloads. -/
theorem codecRoundTrips : Obligations.CodecRoundTrips := by
  unfold Obligations.CodecRoundTrips
  refine ⟨fun c0 c1 c2 h0 h1 h2 => ?_, fun p hp => ?_, card_validPayloads⟩
  · rw [asciiDecode_asciiEncode ⟨h0, h1, h2⟩]
    exact ⟨rfl, rfl⟩
  · exact asciiEncode_asciiDecode (invalid_asciiDecode_eq_false.mp hp)

end Sys2Proof.Machine
end

section
/-! PROOF. R292-R294: what the CRC commands write, and their frame. -/

namespace Sys2Proof.Machine

section Results
variable (s : State)

/-- CRC_STATE as the host reads it (R52, R71). -/
theorem memRead_crcState : memRead s 0x080 = s.crc.state := memRead_offset s .crcState

/-- CRC_VALUE as the host reads it (R53, R71). -/
theorem memRead_crcValue : memRead s 0x084 = s.crc.state ^^^ 0xFFFFFFFF := memRead_offset s .crcValue

/-- CRC_EXPECT as the host reads it (R54, R71). -/
theorem memRead_crcExpect : memRead s 0x088 = s.crc.expect := memRead_offset s .crcExpect

/-- CRC_STAT as the host reads it (R55, R71). -/
theorem memRead_crcStat : memRead s 0x08C = crcStatWord s.crc.mtch := memRead_offset s .crcStat

/-- Replacing the CRC engine changes nothing outside `changed` if no register outside it reads otherwise. -/
theorem setCrc_frame {changed : Nat → Prop} {u : CrcUnit}
    (h : ∀ r : Reg, ¬ changed r.offset → r.read (s.setCrc u) = r.read s) :
    Frame changed s (s.setCrc u).retire where
  window a ha := (memRead_retire _ a).trans (memRead_eq_of_regs h a ha)
  params := rfl
  pending := rfl
  replies := rfl
  ready := rfl
  readyPlan := rfl

/-- Feeding the engine changes CRC_STATE, CRC_VALUE and CRC_STAT only: CRC_EXPECT stays (R292, R293). -/
theorem setCrc_frame_of_feed (state : Word) (mtch : Bool) :
    Frame (fun a => a = 0x080 ∨ a = 0x084 ∨ a = 0x08C) s
      (s.setCrc { s.crc with state, mtch }).retire := by
  refine setCrc_frame s fun r hr => ?_
  cases r with
  | crcState => exact absurd (.inl rfl) hr
  | crcValue => exact absurd (.inr (.inl rfl)) hr
  | crcStat => exact absurd (.inr (.inr rfl)) hr
  | _ => rfl

/-- Checking changes CRC_STAT only (R294). -/
theorem setCrc_frame_of_check (mtch : Bool) :
    Frame (fun a => a = 0x08C) s (s.setCrc { s.crc with mtch }).retire := by
  refine setCrc_frame s fun r hr => ?_
  cases r with
  | crcStat => exact absurd rfl hr
  | _ => rfl

theorem setCrc_quiet (u : CrcUnit) : Quiet s (s.setCrc u).retire := ⟨rfl, rfl, rfl⟩

end Results

/-- Settles O50: each command replaces the engine's fields it names, and the host reads them. -/
theorem crcCommandsWriteTheseResults : Obligations.CrcCommandsWriteTheseResults := by
  unfold Obligations.CrcCommandsWriteTheseResults
  intro s
  rw [memRead_crcState s, memRead_crcExpect s]
  refine ⟨⟨_, rfl, memRead_crcState _, ?_, memRead_crcStat _, setCrc_frame_of_feed s _ _, setCrc_quiet s _⟩,
    fun byte => ⟨_, rfl, memRead_crcState _, memRead_crcValue _, memRead_crcStat _,
      setCrc_frame_of_feed s _ _, setCrc_quiet s _⟩,
    ⟨_, rfl, ?_, setCrc_frame_of_check s _, setCrc_quiet s _⟩⟩
  · rw [memRead_crcValue]
    exact BitVec.xor_self
  · rw [memRead_crcStat]
    exact crcStatWord_beq _ _

end Sys2Proof.Machine
end

section
/-! PROOF. R290, R291: the engine as a register that takes one bit of the string at a time. A state is
recovered from its successor, and up to 32 bits are recovered from what they make of a state. -/

namespace Sys2Proof.Machine

section Shift
variable {st u : Word}

/-- The pass with the choice in the second operand (R291). -/
theorem crcShift_eq (st : Word) : crcShift st = st <<< 1 ^^^ if st.getLsbD 31 then crcPoly else 0 := by
  by_cases h : st.getLsbD 31 = true
  · rw [crcShift, if_pos h, if_pos h]
  · rw [crcShift, if_neg h, if_neg h]
    exact BitVec.xor_zero.symm

/-- POLY has bit 0, so a pass keeps in bit 0 the bit it shifts out. -/
theorem getLsbD_zero_crcShift (st : Word) : (crcShift st).getLsbD 0 = st.getLsbD 31 := by
  rw [crcShift_eq]
  cases st.getLsbD 31 <;> simp [crcPoly]

/-- A pass loses nothing. -/
theorem crcShift_injective : Function.Injective crcShift := by
  intro a b h
  have htop : a.getLsbD 31 = b.getLsbD 31 := by
    rw [← getLsbD_zero_crcShift, h, getLsbD_zero_crcShift]
  have hlow : a <<< 1 = b <<< 1 := by
    rw [crcShift_eq, crcShift_eq, htop] at h
    exact (BitVec.xor_left_inj _).mp h
  refine BitVec.eq_of_getLsbD_eq fun i hi => ?_
  by_cases h31 : i = 31
  · rw [h31, htop]
  · have hbit := congrArg (·.getLsbD (i + 1)) hlow
    simpa [show i + 1 < 32 by omega, hi] using hbit

theorem crcShifts_injective (n : Nat) : Function.Injective (crcShifts n) := by
  induction n with
  | zero => exact fun _ _ h => h
  | succ n ih => exact ih.comp crcShift_injective

/-- A word that enters one place to the right is added after the pass as it is, unless its last bit falls
out. -/
theorem crcShift_xor_ushiftRight (h : u.getLsbD 0 = false) :
    crcShift (st ^^^ u >>> 1) = crcShift st ^^^ u := by
  have htop : (st ^^^ u >>> 1).getLsbD 31 = st.getLsbD 31 := by simp
  have hback : u >>> 1 <<< 1 = u := by
    refine BitVec.eq_of_getLsbD_eq fun i hi => ?_
    cases i with
    | zero => rw [h]; simp
    | succ i => simp [hi, Nat.add_comm 1 i]
  rw [crcShift_eq, crcShift_eq, htop, BitVec.shiftLeft_xor_distrib, hback, BitVec.xor_assoc,
    BitVec.xor_comm u, ← BitVec.xor_assoc]

end Shift

section Bits
variable {st : Word} {xs ys : List Bool}

/-- A bit of the string enters at the top of the register, and one pass follows. -/
def crcBit (st : Word) (b : Bool) : Word := crcShift (st ^^^ (BitVec.ofBool b).setWidth 32 <<< 31)

/-- The state after a string of bits. -/
def crcFeedBits (st : Word) (bits : List Bool) : Word := bits.foldl crcBit st

@[simp] theorem crcFeedBits_nil (st : Word) : crcFeedBits st [] = st := rfl

@[simp] theorem crcFeedBits_cons (st : Word) (b : Bool) (bits : List Bool) :
    crcFeedBits st (b :: bits) = crcFeedBits (crcBit st b) bits := rfl

theorem crcFeedBits_append (st : Word) (xs ys : List Bool) :
    crcFeedBits st (xs ++ ys) = crcFeedBits (crcFeedBits st xs) ys :=
  List.foldl_append

/-- Two states that a string takes to the same state are the same. -/
theorem crcFeedBits_injective (bits : List Bool) : Function.Injective (crcFeedBits · bits) := by
  induction bits with
  | nil => exact fun _ _ h => h
  | cons b bits ih => exact fun _ _ h => (BitVec.xor_left_inj _).mp (crcShift_injective (ih h))

/-- Bits as the top of a word, the first one in bit 31. -/
def topBits : List Bool → Word
  | [] => 0
  | b :: bits => (BitVec.ofBool b).setWidth 32 <<< 31 ^^^ topBits bits >>> 1

/-- Bit i of the string is bit 31 - i of the word. -/
theorem getLsbD_topBits (bits : List Bool) {i : Nat} (hi : i < 32) :
    (topBits bits).getLsbD (31 - i) = bits.getD i false := by
  induction bits generalizing i with
  | nil => simp [topBits]
  | cons b bits ih =>
    cases i with
    | zero => simp [topBits]
    | succ i =>
      rw [topBits, BitVec.getLsbD_xor, BitVec.getLsbD_ushiftRight, BitVec.getLsbD_shiftLeft,
        show 1 + (31 - (i + 1)) = 31 - i by omega, ih (by omega)]
      simp [show 30 - i < 31 by omega]

/-- Strings of the same length up to 32 with the same word are the same. -/
theorem topBits_inj (hlen : xs.length = ys.length) (h32 : xs.length ≤ 32) (h : topBits xs = topBits ys) :
    xs = ys := by
  refine List.ext_getElem hlen fun i hx hy => ?_
  have hbit := getLsbD_topBits xs (i := i) (by omega)
  rw [h, getLsbD_topBits ys (by omega)] at hbit
  simpa [hx, hy] using hbit.symm

/-- Up to 32 bits may enter together, before the passes. -/
theorem crcFeedBits_eq_crcShifts (h : xs.length ≤ 32) :
    crcFeedBits st xs = crcShifts xs.length (st ^^^ topBits xs) := by
  induction xs generalizing st with
  | nil => simp [topBits, crcShifts]
  | cons b bits ih =>
    have hlen : bits.length < 32 := h
    have hlast : (topBits bits).getLsbD 0 = false := by
      rw [← Nat.sub_self 31, getLsbD_topBits bits (by decide), List.getD_eq_default _ _ (by omega)]
    rw [crcFeedBits_cons, ih hlen.le, List.length_cons, crcShifts, topBits, ← BitVec.xor_assoc,
      crcShift_xor_ushiftRight hlast, crcBit]

/-- From one state, two strings of the same length up to 32 that lead to the same state are the same. -/
theorem eq_of_crcFeedBits_eq (hlen : xs.length = ys.length) (h32 : xs.length ≤ 32)
    (h : crcFeedBits st xs = crcFeedBits st ys) : xs = ys := by
  rw [crcFeedBits_eq_crcShifts h32, crcFeedBits_eq_crcShifts (hlen ▸ h32), ← hlen] at h
  exact topBits_inj hlen h32 ((BitVec.xor_right_inj _).mp (crcShifts_injective _ h))

/-- The same with one string before them and one after: the bits of a short burst can be read off the state
they lead to (R297). -/
theorem eq_of_crcFeedBits_burst {pre post : List Bool} (hlen : xs.length = ys.length)
    (h32 : xs.length ≤ 32) (h : crcFeedBits st (pre ++ xs ++ post) = crcFeedBits st (pre ++ ys ++ post)) :
    xs = ys := by
  simp only [crcFeedBits_append] at h
  exact eq_of_crcFeedBits_eq hlen h32 (crcFeedBits_injective post h)

end Bits

/-- The second of two strings starts where the first one ends. -/
theorem topBits_append (xs ys : List Bool) :
    topBits (xs ++ ys) = topBits xs ^^^ topBits ys >>> xs.length := by
  induction xs with
  | nil => simp [topBits]
  | cons x xs ih =>
    rw [List.cons_append, topBits, ih, BitVec.ushiftRight_xor_distrib, ← BitVec.shiftRight_add,
      ← BitVec.xor_assoc, ← topBits, List.length_cons]

/-- A byte's bits, as they enter the register (R76, R291). -/
theorem topBits_byte (b : Byte) :
    topBits ((List.range 8).map fun i => b.getLsbD (7 - i)) = b.setWidth 32 <<< 24 := by
  refine BitVec.eq_of_getLsbD_eq fun j hj => ?_
  obtain ⟨i, hi, rfl⟩ : ∃ i < 32, j = 31 - i := ⟨31 - j, by omega, by omega⟩
  rw [getLsbD_topBits _ hi]
  by_cases h8 : i < 8
  · simp [h8, hj, show ¬ 31 - i < 24 by omega, show 31 - i - 24 = 7 - i by omega]
  · simp [h8, show 31 - i < 24 by omega]

/-- A string's first byte on top, the rest below it (R76). -/
theorem topBits_wireBits_cons (b : Byte) (bytes : List Byte) :
    topBits (wireBits (b :: bytes)) = b.setWidth 32 <<< 24 ^^^ topBits (wireBits bytes) >>> 8 := by
  rw [wireBits_cons, topBits_append, topBits_byte]
  rfl

/-- Feeding a string is feeding its bits in wire order (R290, R291). -/
theorem crcFeed_eq_crcFeedBits (st : Word) (bytes : List Byte) :
    crcFeed st bytes = crcFeedBits st (wireBits bytes) := by
  induction bytes generalizing st with
  | nil => rfl
  | cons b bytes ih =>
    have hbyte : crcStep st b = crcFeedBits st (wireBits [b]) := by
      rw [crcFeedBits_eq_crcShifts (by simp), topBits_wireBits_cons]
      simp [crcStep, topBits]
    rw [crcFeed_cons, ih, hbyte, ← crcFeedBits_append, ← wireBits_append, List.singleton_append]

end Sys2Proof.Machine
end

section
/-! PROOF. R296, R297: the residue of a string with its CRC, and what it says of a burst. -/

namespace Sys2Proof.Machine

/-- The bits of four bytes, the last byte lowest (R118). -/
theorem getLsbD_ofWireBytes (t0 t1 t2 t3 : Byte) (j : Nat) :
    (ofWireBytes t0 t1 t2 t3).getLsbD j = if j < 8 then t3.getLsbD j else if j - 8 < 8 then
      t2.getLsbD (j - 8) else if j - 8 - 8 < 8 then t1.getLsbD (j - 8 - 8) else t0.getLsbD (j - 8 - 8 - 8) := by
  refine BitVec.getLsbD_append.trans ?_
  rw [BitVec.getLsbD_append, BitVec.getLsbD_append]

/-- Four bytes fill a word in wire order (R118): on both sides a bit is a bit of one byte, and the rest is the
arithmetic of its index. -/
theorem topBits_wireBits_four (t0 t1 t2 t3 : Byte) :
    topBits (wireBits [t0, t1, t2, t3]) = ofWireBytes t0 t1 t2 t3 := by
  refine BitVec.eq_of_getLsbD_eq fun j hj => ?_
  simp only [topBits_wireBits_cons, wireBits_nil, topBits, getLsbD_ofWireBytes, BitVec.getLsbD_xor,
    BitVec.getLsbD_ushiftRight, BitVec.getLsbD_shiftLeft, BitVec.getLsbD_setWidth]
  grind

/-- The bytes of a word make the word (R76, R118). -/
theorem ofWireBytes_byteLanes (v : Word) :
    ofWireBytes (byteLane v 3) (byteLane v 2) (byteLane v 1) (byteLane v 0) = v := by
  have h32 : byteLane v 3 ++ byteLane v 2 = v.extractLsb' (8 * 2) (8 + 8) :=
    BitVec.extractLsb'_append_extractLsb'_eq_extractLsb' rfl
  have h321 : v.extractLsb' (8 * 2) (8 + 8) ++ byteLane v 1 = v.extractLsb' (8 * 1) (8 + 8 + 8) :=
    BitVec.extractLsb'_append_extractLsb'_eq_extractLsb' rfl
  rw [ofWireBytes, h32, h321]
  exact (BitVec.extractLsb'_append_extractLsb'_eq_extractLsb' rfl).trans BitVec.extractLsb'_eq_self

/-- Four bytes enter the engine as one word (R291). -/
theorem crcFeed_four (st : Word) (t0 t1 t2 t3 : Byte) :
    crcFeed st [t0, t1, t2, t3] = crcShifts 32 (st ^^^ ofWireBytes t0 t1 t2 t3) := by
  rw [crcFeed_eq_crcFeedBits, crcFeedBits_eq_crcShifts (by simp), topBits_wireBits_four, wireBits_length]
  rfl

/-- The residue is what 32 passes make of 0xFFFFFFFF (R296). -/
theorem crcShifts_ones : crcShifts 32 0xFFFFFFFF = 0xC704DD7B := by decide +kernel

/-- Four bytes after a string leave the residue iff they are its CRC (R296). -/
theorem crcFeed_eq_residue_iff (m : List Byte) (t0 t1 t2 t3 : Byte) :
    crcFeed 0xFFFFFFFF (m ++ [t0, t1, t2, t3]) = 0xC704DD7B ↔ crc32 m = ofWireBytes t0 t1 t2 t3 := by
  have hsolve (st w : Word) : st ^^^ w = 0xFFFFFFFF ↔ st ^^^ 0xFFFFFFFF = w := by
    rw [← BitVec.xor_right_inj st, ← BitVec.xor_assoc, BitVec.xor_self, BitVec.zero_xor, eq_comm]
  rw [crcFeed_append, crcFeed_four, ← crcShifts_ones, (crcShifts_injective 32).eq_iff, hsolve, crc32]

/-- A string with its CRC leaves the residue (R296). -/
theorem crcFeed_append_crc32 (m : List Byte) :
    crcFeed 0xFFFFFFFF (m ++ wireBytes (crc32 m)) = 0xC704DD7B :=
  (crcFeed_eq_residue_iff m _ _ _ _).mpr (ofWireBytes_byteLanes _).symm

/-- Settles O51: the residue of the four bytes that are the CRC, and of no others. -/
theorem appendedCrcLeavesTheResidue : Obligations.AppendedCrcLeavesTheResidue := by
  unfold Obligations.AppendedCrcLeavesTheResidue
  intro m
  refine ⟨crcFeed_append_crc32 m, ?_, crcFeed_eq_residue_iff m⟩
  rw [crc32, crcFeed_append_crc32]
  decide

/-- Settles O52: a buffer taken for a match leaves the residue, as the buffer sent does, and the bits of a
burst can be read off the state they lead to. -/
theorem shortErrorsChangeTheCrc : Obligations.ShortErrorsChangeTheCrc := by
  unfold Obligations.ShortErrorsChangeTheCrc
  intro m m' t0 t1 t2 t3 pre x y post hsent hgot hlen h32 hne hmatch
  have hresidue : crcFeed 0xFFFFFFFF (m ++ wireBytes (crc32 m)) =
      crcFeed 0xFFFFFFFF (m' ++ [t0, t1, t2, t3]) :=
    (crcFeed_append_crc32 m).trans ((crcFeed_eq_residue_iff m' t0 t1 t2 t3).mpr hmatch).symm
  rw [crcFeed_eq_crcFeedBits, crcFeed_eq_crcFeedBits, hsent, hgot] at hresidue
  exact hne (eq_of_crcFeedBits_burst hlen h32 hresidue)

end Sys2Proof.Machine
end

section
/-! PROOF. R310: NOP's CMD write leaves the queue, and that is all it does. -/

namespace Sys2Proof.Machine

theorem exec_nop (s : State) : exec .nop s = .next s.retire := rfl

/-- A completed access changes the queue only, which is no register (R310). -/
theorem retire_frame (s : State) : Frame (fun _ => False) s s.retire where
  window a _ := memRead_retire s a
  params := rfl
  pending := rfl
  replies := rfl
  ready := rfl
  readyPlan := rfl

theorem retire_quiet (s : State) : Quiet s s.retire := ⟨rfl, rfl, rfl⟩

/-- Settles O17: NOP only completes its CMD write, and a completed access leaves the window and the streams. -/
theorem nopChangesNothing : Obligations.NopChangesNothing := by
  unfold Obligations.NopChangesNothing
  intro s
  exact ⟨s.retire, exec_nop s, retire_frame s, retire_quiet s⟩

end Sys2Proof.Machine
end

section
/-! PROOF. R330, R331, R333, R334: the command errors, which of them a word raises, and what clears ERR. -/

namespace Sys2Proof

/-- An opcode is known by its byte (R111). -/
theorem Opcode.eq_of_code_toNat {op op' : Opcode} (h : op.code.toNat = op'.code.toNat) : op = op' := by
  have hbyte := Opcode.ofByte?_code op
  rw [BitVec.eq_of_toNat_eq h, Opcode.ofByte?_code] at hbyte
  exact (Option.some.inj hbyte).symm

/-- A word of a defined opcode with its reserved bits 0 decodes to the opcode's operands (R110, R113). -/
theorem decode_of_code {w : Word} {op : Opcode} (hop : w.toNat % 256 = op.code.toNat)
    (hbits : w &&& op.format.rsvdMask = 0) : decode w = .ok (op.operands w) := by
  have hbyte : field w 0 8 = op.code := BitVec.eq_of_toNat_eq ((Machine.opcodeByte_toNat w).trans hop)
  exact decode_eq_ok.mpr ⟨op, hbyte ▸ Opcode.ofByte?_code op, hbits, rfl⟩

namespace Machine

/-- A word that does not decode ends with its command error (R331). -/
theorem execute_of_error {w : Word} {e : CmdErr} (h : decode w = .error e) (s : State) :
    execute w s = .next (s.raiseCmdError e w).retire := by
  simp only [execute, h]

/-- A word that decodes runs its command (R75). -/
theorem execute_of_ok {w : Word} {i : Instr} (h : decode w = .ok i) (s : State) :
    execute w s = exec i s := by
  simp only [execute, h]

/-- No command word stops the machine (R336). -/
theorem execute_answers_next (w : Word) (s : State) : ∃ t, execute w s = .next t := by
  cases h : decode w with
  | error e => exact ⟨_, execute_of_error h s⟩
  | ok i => rw [execute_of_ok h]; exact exec_answers_next i s

/-- A VT_LOAD out of range ends with RANGE, whose word is the word it was decoded from (R221, R331). -/
theorem execute_of_range {w : Word} {idx : Nat} {sym : BitVec 3} (h : decode w = .ok (.vtLoad idx sym))
    (hidx : 146 < idx) (s : State) : execute w s = .next (s.raiseCmdError .range w).retire := by
  obtain ⟨-, hword⟩ := encodeReadsBackDecode w _ h
  rw [execute_of_ok h, exec_vtLoad_of_gt hidx, hword]

/-- Settles O12: ERR, ERR_CMD and the rest of the window are read one by one; the decoder's errors are raised
by `execute`, and RANGE by VT_LOAD. -/
theorem commandErrorHasExactlyThisEffect : Obligations.CommandErrorHasExactlyThisEffect := by
  unfold Obligations.CommandErrorHasExactlyThisEffect
  refine ⟨fun s e cmd => ⟨?err, ?errCmd, ?frame, ⟨rfl, rfl, rfl⟩⟩,
    fun s v e h => execute_of_error h s, fun s v idx sym h hidx => execute_of_range h hidx s⟩
  case err =>
    rw [← memRead_retire]
    cases e <;> exact memRead_raiseCmdError_err s _ cmd
  case errCmd =>
    rw [← memRead_retire]
    exact memRead_raiseCmdError_errCmd s e cmd
  case frame =>
    intro a herr hcmd
    rw [← memRead_retire]
    exact (raiseCmdError_frame s e cmd).window a (not_or.mpr ⟨herr, hcmd⟩)

/-- A command other than SYS_RESET leaves ERR and ERR_CMD, or it is a VT_LOAD out of range and raises RANGE
(R330). -/
theorem err_eq_or_range {i : Instr} {s t : State} (h : exec i s = .next t) (hne : i ≠ .sysReset) :
    t.err = s.err ∨ ∃ idx sym, i = .vtLoad idx sym ∧ 146 < idx ∧
      t = (s.raiseCmdError .range (encode i)).retire := by
  cases exec_effect h with
  | sysReset => exact absurd rfl hne
  | outOfRange idx sym high => exact .inr ⟨idx, sym, rfl, high, rfl⟩
  | _ => exact .inl rfl

/-- Settles O14: ERR stays as it is, or RANGE sets one more bit. -/
theorem onlySysResetClearsErrBits : Obligations.OnlySysResetClearsErrBits := by
  unfold Obligations.OnlySysResetClearsErrBits
  intro i s t n h hne hbit
  rcases err_eq_or_range h hne with herr | ⟨idx, sym, -, -, rfl⟩
  · rw [herr]
    exact hbit
  · rw [State.retire_err, State.raiseCmdError_err, getLsbD_setErr, hbit, Bool.true_or]

section Outcome
variable {w : Word} {s t : State} (ht : execute w s = .next t)
include ht

/-- A word that does not decode sets the bit of the decoder's error (R331). -/
theorem memRead_err_of_error {e : CmdErr} (h : decode w = .error e) :
    memRead t Reg.err.offset = memRead s Reg.err.offset ||| (errMask e).setWidth 32 := by
  cases (execute_of_error h s).symm.trans ht
  exact memRead_raiseCmdError_err s e w

/-- A VT_LOAD out of range sets the bit of RANGE (R221, R331). -/
theorem memRead_err_of_range {idx : Nat} {sym : BitVec 3} (h : decode w = .ok (.vtLoad idx sym))
    (hidx : 146 < idx) :
    memRead t Reg.err.offset = memRead s Reg.err.offset ||| (errMask .range).setWidth 32 := by
  cases (execute_of_range h hidx s).symm.trans ht
  exact memRead_raiseCmdError_err s .range w

/-- A word that decodes to anything but SYS_RESET or a VT_LOAD out of range leaves ERR (R330). -/
theorem memRead_err_of_ok {i : Instr} (h : decode w = .ok i) (hne : i ≠ .sysReset)
    (hload : ∀ idx sym, i = .vtLoad idx sym → idx ≤ 146) :
    memRead t Reg.err.offset = memRead s Reg.err.offset := by
  rcases err_eq_or_range ((execute_of_ok h s).symm.trans ht) hne with herr | ⟨idx, sym, hi, hidx, -⟩
  · rw [memRead_offset, memRead_offset, read_err, read_err, herr]
  · exact absurd (hload idx sym hi) (Nat.not_le.mpr hidx)

end Outcome

/-- Settles O13: the decoder rejects an illegal byte first and a reserved bit second; what it accepts raises
RANGE or nothing. -/
theorem firstErrorWins : Obligations.FirstErrorWins := by
  unfold Obligations.FirstErrorWins
  intro w s
  obtain ⟨t, ht⟩ := execute_answers_next w s
  refine ⟨t, ht, fun h => memRead_err_of_error ht ((illegalByte_iff_decode w).mp h), ?_⟩
  rw [reservedMasks_eq, List.forall_mem_map]
  intro op _ hop
  have hidx : (field w 8 8).toNat = w.toNat / 2 ^ 8 % 2 ^ 8 := field_toNat w 8 8
  refine ⟨fun hbits => memRead_err_of_error ht ((decode_eq_rsvdNonzero_of_code hop).mpr hbits),
    fun hbits hload hhigh => ?high, fun hbits hload hle => ?inRange, fun hbits hload hreset => ?other⟩
  case high =>
    obtain rfl : op = .vtLoad := Opcode.eq_of_code_toNat hload
    exact memRead_err_of_range ht (decode_of_code hop hbits) (hidx ▸ hhigh)
  case inRange =>
    obtain rfl : op = .vtLoad := Opcode.eq_of_code_toNat hload
    refine memRead_err_of_ok ht (decode_of_code hop hbits) nofun fun idx sym h => ?_
    cases h
    exact hidx ▸ hle
  case other =>
    have hopcode := Opcode.operands_opcode op w
    refine memRead_err_of_ok ht (decode_of_code hop hbits) (fun h => ?_) fun idx sym h => ?_ <;>
      rw [h] at hopcode <;> subst hopcode
    · exact absurd rfl hreset
    · exact absurd rfl hload

end Machine

end Sys2Proof
end

section
/-! PROOF. R311, R360: the values of the registers after reset, and SYS_RESET. -/

namespace Sys2Proof.Machine

/-- An offset reads 0 if its register does, or if it has none (R73). -/
theorem memRead_eq_zero {s : State} {a : Nat} (h : ∀ r : Reg, r.offset = a → r.read s = 0) :
    memRead s a = 0 := by
  unfold memRead
  split
  · next r hr => exact h r (Reg.offset_of_ofOffset? hr)
  · rfl

/-- Every register but ID, TG_AMP and CRC_STATE reads 0 after reset (R34-R57, R360). -/
theorem read_reset {r : Reg} (hid : r ≠ .id) (hamp : r ≠ .tgAmp) (hcrc : r ≠ .crcState) :
    r.read State.reset = 0 := by
  cases r with
  | id => exact absurd rfl hid
  | tgAmp => exact absurd rfl hamp
  | crcState => exact absurd rfl hcrc
  | tgPhase i => simp [State.reset, ToneUnit.reset]
  | mag k => simp [State.reset, DemodUnit.reset]
  | vtSym i => simp [State.reset, VoterUnit.reset]
  | _ => rfl

/-- What the host reads after reset (R360). -/
theorem memRead_reset (a : Nat) : memRead State.reset a =
    if a = 0x000 then 0x46534B38
    else if a = 0x010 then 22938
    else if a = 0x080 then 0xFFFFFFFF
    else 0 := by
  split_ifs with hid hamp hcrc
  · subst hid; exact memRead_offset _ .id
  · subst hamp; exact memRead_offset _ .tgAmp
  · subst hcrc; exact memRead_offset _ .crcState
  · refine memRead_eq_zero fun r hr => read_reset ?_ ?_ ?_ <;> rintro rfl
    · exact hid hr.symm
    · exact hamp hr.symm
    · exact hcrc hr.symm

theorem exec_sysReset (s : State) : exec .sysReset s = .next s.resetUnits.retire := rfl

/-- The host reads the same after SYS_RESET as after reset: both put every unit at its reset value (R311). -/
theorem memRead_sysReset (s : State) (a : Nat) :
    memRead s.resetUnits.retire a = memRead State.reset a :=
  memRead_congr rfl rfl rfl rfl rfl rfl rfl a

/-- Settles O16: the registers' values after reset, and SYS_RESET as a reset of the units alone. -/
theorem resetValuesAndSysReset : Obligations.ResetValuesAndSysReset := by
  unfold Obligations.ResetValuesAndSysReset
  refine ⟨memRead_reset, fun n => by simp [State.reset, DemodUnit.reset], rfl, rfl, fun s => ?_⟩
  exact ⟨s.resetUnits.retire, exec_sysReset s, memRead_sysReset s, rfl, rfl, rfl, rfl, rfl, rfl, rfl, rfl⟩

end Sys2Proof.Machine
end
